-- ==== Sys2Proof/Word.lean ====
section
/-! DEFINITION. The word types of BCDCAL: the widths of 00_scope.md R4 (ACC_W = 32, YEAR_W = 16,
FLD_W = 8, CMD_W = 8, a port address of 4 bits). Bit 0 is the least significant bit (R6). -/

namespace Sys2Proof

/-- A byte: a tuple field other than the year, an image byte, a command word (R4, R30, R45). -/
abbrev Byte := BitVec 8

/-- The width of T[YEAR] (R4, R11). -/
abbrev HalfWord := BitVec 16

/-- The width of ACC and of the port data path (R4, R13, R31). -/
abbrev Word := BitVec 32

/-- A port address `pa` (R30). -/
abbrev PortAddr := BitVec 4

end Sys2Proof
end

