-- ==== Sys2Proof/Syntax.lean ====
section
/-! DEFINITION. The commands of BCDCAL: one constructor for each row of spec/opcode_table.json
(30_encoding.md R47), in the table's order. The rows of BCD2DEC, GETF and SETF have their field
operand spelled out, as the table has them. -/

namespace Sys2Proof

/-- A BCDCAL command (30_encoding.md R47). -/
inductive Instr where
  /-- NOP, 0x00 (42_tuple_access.md R110). -/
  | nop
  /-- BCD2DEC YEAR, 0x10 (40_register_codec.md R66). -/
  | bcd2decYear
  /-- BCD2DEC MONTH, 0x11 (R66). -/
  | bcd2decMonth
  /-- BCD2DEC DAY, 0x12 (R66). -/
  | bcd2decDay
  /-- BCD2DEC HOUR, 0x14 (R66). -/
  | bcd2decHour
  /-- BCD2DEC MIN, 0x15 (R66). -/
  | bcd2decMin
  /-- BCD2DEC SEC, 0x16 (R66). -/
  | bcd2decSec
  /-- DEC2BCD, 0x20 (R67). -/
  | dec2bcd
  /-- WDPACK, 0x21 (R68). -/
  | wdpack
  /-- WDUNPACK, 0x22 (R69). -/
  | wdunpack
  /-- YEARDEC, 0x23 (R70). -/
  | yeardec
  /-- DAYS, 0x30 (41_calendar_engine.md R93). -/
  | days
  /-- YEAROF, 0x31 (R94). -/
  | yearof
  /-- DOY, 0x32 (R95). -/
  | doy
  /-- MONTHOF, 0x33 (R96). -/
  | monthof
  /-- DAYOF, 0x34 (R97). -/
  | dayof
  /-- WDOF, 0x35 (R98). -/
  | wdof
  /-- GETF YEAR, 0x40 (42_tuple_access.md R111). -/
  | getfYear
  /-- GETF MONTH, 0x41 (R111). -/
  | getfMonth
  /-- GETF DAY, 0x42 (R111). -/
  | getfDay
  /-- GETF WDAY, 0x43 (R111). -/
  | getfWday
  /-- GETF HOUR, 0x44 (R111). -/
  | getfHour
  /-- GETF MIN, 0x45 (R111). -/
  | getfMin
  /-- GETF SEC, 0x46 (R111). -/
  | getfSec
  /-- TOEPOCH, 0x47: GETF of the pseudo-field EPOCH (41_calendar_engine.md R99). -/
  | toepoch
  /-- SETF YEAR, 0x50 (42_tuple_access.md R112). -/
  | setfYear
  /-- SETF MONTH, 0x51 (R112). -/
  | setfMonth
  /-- SETF DAY, 0x52 (R112). -/
  | setfDay
  /-- SETF WDAY, 0x53 (R112). -/
  | setfWday
  /-- SETF HOUR, 0x54 (R112). -/
  | setfHour
  /-- SETF MIN, 0x55 (R112). -/
  | setfMin
  /-- SETF SEC, 0x56 (R112). -/
  | setfSec
  /-- FROMEPOCH, 0x57: SETF of the pseudo-field EPOCH (41_calendar_engine.md R100). -/
  | fromepoch
  /-- UNPACKCLK, 0x60 (43_register_image.md R120). -/
  | unpackclk
  /-- PACKCLK, 0x61 (R121). -/
  | packclk
  /-- CLRALM, 0x62 (R123). -/
  | clralm
  /-- PACKALM idx, 0x70..0x7F (R122). The operand is a number 0..15 (30_encoding.md R52). -/
  | packalm (idx : Nat)
  deriving DecidableEq, Repr

end Sys2Proof
end

