-- ==== Sys2Proof/WellFormed.lean ====
section
/-! DEFINITION. Which commands have an encoding. The one operand with a bound is PACKALM's index,
which 30_encoding.md R52 gives as a number 0..15. -/

namespace Sys2Proof

/-- The operand fits the 4-bit field `sel` (30_encoding.md R51, R52). -/
def Instr.wellFormed (i : Instr) : Bool :=
  match i with
  | .packalm idx => decide (idx < 16)
  | .nop | .bcd2decYear | .bcd2decMonth | .bcd2decDay | .bcd2decHour | .bcd2decMin | .bcd2decSec
  | .dec2bcd | .wdpack | .wdunpack | .yeardec
  | .days | .yearof | .doy | .monthof | .dayof | .wdof
  | .getfYear | .getfMonth | .getfDay | .getfWday | .getfHour | .getfMin | .getfSec | .toepoch
  | .setfYear | .setfMonth | .setfDay | .setfWday | .setfHour | .setfMin | .setfSec | .fromepoch
  | .unpackclk | .packclk | .clralm => true

end Sys2Proof
end

