-- ==== Sys2Proof/Decode.lean ====
section
/-! DEFINITION. The command decoder and encoder, from the opcode map of 30_encoding.md R47. Decoding
is total (R48): a word of the map gives its command, any other word is rejected under the name of the
group of R49 it belongs to. -/

namespace Sys2Proof

/-- The groups of illegal words (30_encoding.md R49, R50). The name says why the word has no command;
the block treats them all alike. -/
inductive IllegalWord where
  /-- `opc` = 0 with `sel` other than 0. -/
  | nopSelector
  /-- BCD2DEC with the selector WDAY (0x13): the weekday byte is a bitmask, not BCD (R50). -/
  | bcdOfWeekday
  /-- BCD2DEC with the selector EPOCH (0x17): the pseudo-field has no register byte (R50). -/
  | bcdOfEpoch
  /-- BCD2DEC with a selector 8..15, no field (R46). -/
  | bcdSelector
  /-- `opc` = 2 with `sel` of 4 or above. -/
  | codecSelector
  /-- `opc` = 3 with `sel` of 6 or above. -/
  | calendarSelector
  /-- `opc` = 4 with `sel` of 8 or above. -/
  | getSelector
  /-- `opc` = 5 with `sel` of 8 or above. -/
  | setSelector
  /-- `opc` = 6 with `sel` of 3 or above. -/
  | imageSelector
  /-- `opc` of 8 or above. -/
  | reservedGroup
  deriving DecidableEq, Repr

/-- The operation group of a command word, bits 7:4 (30_encoding.md R45). -/
def opcField (w : Byte) : Nat := w.toNat / 16

/-- The selector of a command word, bits 3:0 (30_encoding.md R45). -/
def selField (w : Byte) : Nat := w.toNat % 16

/-- Group 1: BCD2DEC f (R47, with R50 for the selectors it leaves out). -/
def decodeBcdGroup : Nat → Except IllegalWord Instr
  | 0 => .ok .bcd2decYear
  | 1 => .ok .bcd2decMonth
  | 2 => .ok .bcd2decDay
  | 3 => .error .bcdOfWeekday
  | 4 => .ok .bcd2decHour
  | 5 => .ok .bcd2decMin
  | 6 => .ok .bcd2decSec
  | 7 => .error .bcdOfEpoch
  | _ => .error .bcdSelector

/-- Group 2: the scalar codec commands (R47). -/
def decodeCodecGroup : Nat → Except IllegalWord Instr
  | 0 => .ok .dec2bcd
  | 1 => .ok .wdpack
  | 2 => .ok .wdunpack
  | 3 => .ok .yeardec
  | _ => .error .codecSelector

/-- Group 3: the scalar calendar commands (R47). -/
def decodeCalendarGroup : Nat → Except IllegalWord Instr
  | 0 => .ok .days
  | 1 => .ok .yearof
  | 2 => .ok .doy
  | 3 => .ok .monthof
  | 4 => .ok .dayof
  | 5 => .ok .wdof
  | _ => .error .calendarSelector

/-- Group 4: GETF f, with TOEPOCH at the selector EPOCH (R46, R47). -/
def decodeGetGroup : Nat → Except IllegalWord Instr
  | 0 => .ok .getfYear
  | 1 => .ok .getfMonth
  | 2 => .ok .getfDay
  | 3 => .ok .getfWday
  | 4 => .ok .getfHour
  | 5 => .ok .getfMin
  | 6 => .ok .getfSec
  | 7 => .ok .toepoch
  | _ => .error .getSelector

/-- Group 5: SETF f, with FROMEPOCH at the selector EPOCH (R46, R47). -/
def decodeSetGroup : Nat → Except IllegalWord Instr
  | 0 => .ok .setfYear
  | 1 => .ok .setfMonth
  | 2 => .ok .setfDay
  | 3 => .ok .setfWday
  | 4 => .ok .setfHour
  | 5 => .ok .setfMin
  | 6 => .ok .setfSec
  | 7 => .ok .fromepoch
  | _ => .error .setSelector

/-- Group 6: the clock image and the alarm's clearing (R47). -/
def decodeImageGroup : Nat → Except IllegalWord Instr
  | 0 => .ok .unpackclk
  | 1 => .ok .packclk
  | 2 => .ok .clralm
  | _ => .error .imageSelector

/-- Decode a command word (30_encoding.md R47, R48, R49). -/
def decode (w : Byte) : Except IllegalWord Instr :=
  match opcField w with
  | 0 => if selField w = 0 then .ok .nop else .error .nopSelector
  | 1 => decodeBcdGroup (selField w)
  | 2 => decodeCodecGroup (selField w)
  | 3 => decodeCalendarGroup (selField w)
  | 4 => decodeGetGroup (selField w)
  | 5 => decodeSetGroup (selField w)
  | 6 => decodeImageGroup (selField w)
  | 7 => .ok (.packalm (selField w))
  | _ => .error .reservedGroup

/-- The word of a command (30_encoding.md R47). Only the low four bits of PACKALM's index fit `sel`:
an index that is not well formed loses the rest (log entry 10). -/
def encode (i : Instr) : Byte :=
  match i with
  | .nop => 0x00#8
  | .bcd2decYear => 0x10#8
  | .bcd2decMonth => 0x11#8
  | .bcd2decDay => 0x12#8
  | .bcd2decHour => 0x14#8
  | .bcd2decMin => 0x15#8
  | .bcd2decSec => 0x16#8
  | .dec2bcd => 0x20#8
  | .wdpack => 0x21#8
  | .wdunpack => 0x22#8
  | .yeardec => 0x23#8
  | .days => 0x30#8
  | .yearof => 0x31#8
  | .doy => 0x32#8
  | .monthof => 0x33#8
  | .dayof => 0x34#8
  | .wdof => 0x35#8
  | .getfYear => 0x40#8
  | .getfMonth => 0x41#8
  | .getfDay => 0x42#8
  | .getfWday => 0x43#8
  | .getfHour => 0x44#8
  | .getfMin => 0x45#8
  | .getfSec => 0x46#8
  | .toepoch => 0x47#8
  | .setfYear => 0x50#8
  | .setfMonth => 0x51#8
  | .setfDay => 0x52#8
  | .setfWday => 0x53#8
  | .setfHour => 0x54#8
  | .setfMin => 0x55#8
  | .setfSec => 0x56#8
  | .fromepoch => 0x57#8
  | .unpackclk => 0x60#8
  | .packclk => 0x61#8
  | .clralm => 0x62#8
  | .packalm idx => BitVec.ofNat 8 (0x70 + idx % 16)

/-- The command word among the low `nbits` bits of `w`, as the host stores it: wdata[7:0]
(30_encoding.md R45). A command has eight bits, so any further bit is dropped (R48). -/
def commandByte (nbits w : Nat) : Byte := BitVec.ofNat 8 (w % 2 ^ nbits)

/-- What the decoder reads from a row's bits, numbered as spec/opcode_table.json numbers them. -/
def decodeTableWord (nbits w : Nat) : Option Instr :=
  match decode (commandByte nbits w) with
  | .ok i => some i
  | .error _ => none

end Sys2Proof
end

