-- ==== Sys2Proof/Machine/BcdCode.lean ====
section
/-! DEFINITION. The pure functions of RegisterCodec (40_register_codec.md, section 1). -/

namespace Sys2Proof.Machine

/-- `nib_hi(b)`, bits 7:4 (00_scope.md R6). -/
def nibHi (b : Byte) : Nat := b.toNat / 16

/-- `nib_lo(b)`, bits 3:0 (00_scope.md R6). -/
def nibLo (b : Byte) : Nat := b.toNat % 16

/-- `bcd2dec(b)` (40_register_codec.md R60): defined for every byte, well formed or not. -/
def bcd2dec (b : Byte) : Nat := nibHi b * 10 + nibLo b

/-- The fields whose register byte is BCD: those with a row in the mask table of 40_register_codec.md
R61. The weekday byte is a bitmask and has none. -/
inductive BcdField where
  | year | month | day | hour | min | sec
  deriving DecidableEq, Repr

/-- `MASK[f]` (40_register_codec.md R61). -/
def decodeMask : BcdField → Byte
  | .year => 0xFF#8
  | .month => 0x1F#8
  | .day => 0x3F#8
  | .hour => 0x3F#8
  | .min => 0x7F#8
  | .sec => 0x7F#8

/-- `dec2bcd(n)` (40_register_codec.md R62): the low 8 bits. -/
def dec2bcd (n : Nat) : Byte := BitVec.ofNat 8 (n / 10 * 16 + n % 10)

/-- `wdpack(w)`, the low 8 bits of 2^w (40_register_codec.md R63). From w = 8 on they are zero, as the
rule says; the power is not formed there. -/
def wdpack (w : Nat) : Byte := if w < 8 then BitVec.ofNat 8 (2 ^ w) else 0#8

/-- `wdscan(b, prev)`: bits 0 to 6 in ascending order, the last match wins, no match keeps `prev`
(40_register_codec.md R64). -/
def wdscan (b prev : Byte) : Byte :=
  [0, 1, 2, 3, 4, 5, 6].foldl (fun r i => if b.getLsbD i then BitVec.ofNat 8 i else r) prev

/-- `yeardec(b)`: the two-digit year with pivot 70 (40_register_codec.md R65). -/
def yeardec (b : Byte) : Nat := if bcd2dec b < 70 then 2000 + bcd2dec b else 1900 + bcd2dec b

/-- `popcount(b[6:0])` (60_exceptions.md R145). -/
def weekdayBits (b : Byte) : Nat := [0, 1, 2, 3, 4, 5, 6].countP (fun i => b.getLsbD i)

end Sys2Proof.Machine
end

