-- ==== Sys2Proof/Machine/Calendar.lean ====
section
/-! DEFINITION. The pure functions of CalendarEngine (41_calendar_engine.md, sections 1 and 2). An epoch
value and a tuple field are natural numbers; what can be negative is an integer (00_scope.md R5). -/

namespace Sys2Proof.Machine

/-- `ceil(a / b)` for b > 0, as -((-a) div b) (00_scope.md R5). -/
def ceilDiv (a b : Int) : Int := -((-a) / b)

/-- `leap(y)`: 1 iff y mod 4 = 0, with no century rule (41_calendar_engine.md R80). -/
def leap (y : Int) : Int := if y % 4 = 0 then 1 else 0

/-- `days(e)` (R81). -/
def days (e : Nat) : Nat := e / 86400

/-- `yearoff(e)` in the integer form of R82. -/
def yearoff (e : Nat) : Nat := (4 * days e + 2) / 1461

/-- `yearof(e)` (R82). -/
def yearof (e : Nat) : Nat := 1970 + yearoff e

/-- `ystart(yo)`: the day number of 1 January of year 1970 + yo (R83). -/
def ystart (yo : Int) : Int := yo * 365 + ceilDiv (yo - 2) 4

/-- `doy(e)`, counted from 0 (R84). -/
def doy (e : Nat) : Int := days e - ystart (yearoff e)

/-- The eleven rows of the month ladder, December down to February, each the month and its threshold
`TH(m, L)` (R85, 90_conflicts.md C1). -/
def monthTable (L : Int) : List (Nat × Int) :=
  [(12, 334 + L), (11, 304 + L), (10, 273 + L), (9, 243 + L), (8, 212 + L), (7, 181 + L),
   (6, 151 + L), (5, 120 + L), (4, 90 + L), (3, 59 + L), (2, 31)]

/-- The scan of the ladder for day of year n: the first row with n >= TH gives (m, n - TH + 1); past the
last row it is January, (1, n + 1) (R85). -/
def monthScan (n : Int) : List (Nat × Int) → Nat × Int
  | [] => (1, n + 1)
  | (m, th) :: rows => if th ≤ n then (m, n - th + 1) else monthScan n rows

/-- `monthday(e)` (R85). -/
def monthday (e : Nat) : Nat × Int := monthScan (doy e) (monthTable (leap (yearof e)))

/-- `monthof(e)` (R85). -/
def monthof (e : Nat) : Nat := (monthday e).1

/-- `dayof(e)` (R85). -/
def dayof (e : Nat) : Int := (monthday e).2

/-- `wdof(e)`, 0 = Sunday (R86). -/
def wdof (e : Nat) : Nat := (days e + 4) % 7

/-- `hourof(e)` (R87). -/
def hourof (e : Nat) : Nat := e / 3600 % 24

/-- `minof(e)` (R87). -/
def minof (e : Nat) : Nat := e / 60 % 60

/-- `secof(e)` (R87). -/
def secof (e : Nat) : Nat := e % 60

/-- `normyear(y)`: a year below 100 is a year of the 2000s, with no pivot (R88). -/
def normyear (y : Nat) : Nat := if y < 100 then y + 2000 else y

/-- `TH(m, L)` for m in 1..12, January's being the implicit 0; none for any other m (R85). -/
def threshold (m : Nat) (L : Int) : Option Int := (monthTable L ++ [(1, 0)]).lookup m

/-- `moff(m, L) = TH(m, L) - 1`; none for m outside 1..12, where R89 leaves it undefined. -/
def moff (m : Nat) (L : Int) : Option Int := (threshold m L).map (· - 1)

/-- `toepoch_z(y, mo, d, h, mi, s)` over the integers; none for mo outside 1..12 (R90). -/
def toepochZ (y mo d h mi s : Nat) : Option Int :=
  (moff mo (leap (normyear y))).map fun off =>
    (((ystart ((normyear y : Int) - 1970) + off + d) * 24 + h) * 60 + mi) * 60 + s

/-- `INWINDOW(e)` (R91). -/
def inWindow (e : Nat) : Bool := decide (e < 3155760000)

/-- `INCONTRACT(y, mo, d, h, mi, s)` (R91). The day is not checked against the month's length. -/
def inContract (y mo d h mi s : Nat) : Bool :=
  decide (1970 ≤ normyear y ∧ normyear y ≤ 2069 ∧ 1 ≤ mo ∧ mo ≤ 12 ∧ 1 ≤ d ∧ d ≤ 31 ∧
    h ≤ 23 ∧ mi ≤ 59 ∧ s ≤ 59)

end Sys2Proof.Machine
end

