-- ==== Sys2Proof/Config.lean ====
section
/-! DEFINITION. The implementation parameters of 00_scope.md R4 that fix a size. R17 asks for the
tables and the calendar constants as literals of the rules, so they stand there (Machine/BcdCode.lean,
Machine/Calendar.lean) and not here. LATENCY is no constant: each bus cycle of the input says whether
the block answers in it (log entry 3). -/

namespace Sys2Proof.Config

/-- IMG_N of R4: the image memory has 12 bytes, addresses 0..11 (20_memory.md R30). -/
def imgSize : Nat := 12

/-- What an IMG byte that nothing has written reads as: its reset value (10_state.md R20). -/
def unlistedByte : Byte := 0x00#8

end Sys2Proof.Config
end

