-- ==== Sys2Proof/Machine/State.lean ====
section
/-! DEFINITION. The machine's state (10_state.md R10): the calendar tuple, ACC, STATUS and the image
memory; and the model's own two fields for the host interface of 20_memory.md R44 (the input signals
still to come, the output signals of the last cycle), both plain data. -/

namespace Sys2Proof.Machine

/-- The tuple register file T (10_state.md R11). -/
structure Tuple where
  /-- T[0], 16 bits. -/
  year : HalfWord
  /-- T[1]. -/
  month : Byte
  /-- T[2]. -/
  day : Byte
  /-- T[3]. -/
  wday : Byte
  /-- T[4]. -/
  hour : Byte
  /-- T[5]. -/
  min : Byte
  /-- T[6]. -/
  sec : Byte
  deriving DecidableEq, Repr

/-- The seven tuple registers by name (10_state.md R11; selectors 0..6 of 30_encoding.md R46). -/
inductive Field where
  | year | month | day | wday | hour | min | sec
  deriving DecidableEq, Repr

/-- The four implemented bits of STATUS (10_state.md R14). Bits 7:4 of the port read as zero and are no
state. -/
structure Status where
  /-- Bit 0. -/
  illcmd : Bool
  /-- Bit 1. -/
  badbcd : Bool
  /-- Bit 2. -/
  range : Bool
  /-- Bit 3. -/
  wdbad : Bool
  deriving DecidableEq, Repr

/-- The causes, one for each flag of STATUS (60_exceptions.md R141). -/
inductive Cause where
  | illcmd | badbcd | range | wdbad
  deriving DecidableEq, Repr

/-- The image memory IMG as address and byte pairs (20_memory.md R30). Its canonical form is
Memory.wf of Machine/Ops.lean. -/
abbrev Memory := List Host.Cell

/-- A host transaction (20_memory.md R32): the triple of 30_encoding.md R52. -/
structure Request where
  /-- 1 for a write, 0 for a read. -/
  we : Bool
  pa : PortAddr
  wdata : Word
  deriving DecidableEq, Repr

/-- One `clk` cycle as the block's input pins see it (20_memory.md R44), with the one thing the spec
leaves open about it: `ready` says whether the block answers a request in this cycle (LATENCY of
00_scope.md R4 is any positive number of cycles; log entry 3). Two such cycles one after the other are
two transactions (log entry 15). -/
structure BusCycle where
  rst : Bool
  req : Bool
  we : Bool
  pa : PortAddr
  wdata : Word
  ready : Bool
  deriving DecidableEq, Repr

/-- The output pins in the last cycle (20_memory.md R44): `ack`, and `rdata` in the cycle that answers
a read, the only cycle in which R44 calls it valid (log entry 2). -/
inductive BusAnswer where
  /-- `ack` low. -/
  | noAck
  /-- `ack` high: a write was performed. -/
  | written
  /-- `ack` high: a read was performed and returned `rdata`. -/
  | readData (rdata : Word)
  deriving DecidableEq, Repr

/-- The state. The first four fields are the architectural state of 10_state.md R10; `host` and
`answer` are the model's own (log entries 1 and 2). -/
structure State where
  /-- T[0..6] (R11). -/
  tuple : Tuple
  /-- The accumulator (R13). -/
  acc : Word
  /-- The sticky flags (R14, R15). -/
  status : Status
  /-- IMG[0..11] (20_memory.md R30). -/
  img : Memory
  /-- The host's input signals still to come, oldest first. -/
  host : List BusCycle
  /-- The block's output signals in the last cycle. -/
  answer : BusAnswer
  deriving DecidableEq, Repr

/-- Why the model stops with a fault. The block itself has no trap (60_exceptions.md R140). -/
inductive Fault where
  /-- Raised by readImg and writeImg of Machine/Ops.lean for an IMG address outside 0..11, which
  20_memory.md R30 says does not exist. No command and no port names such an address, so no step raises
  it. Safe. -/
  | noSuchImgAddress (a : Nat)
  deriving DecidableEq, Repr

/-- Why the model refuses an instruction. -/
inductive Refusal where
  /-- Raised by the arm of exec of an instruction that has no meaning yet; no arm is left so. Safe. -/
  | notModelled (mnemonic : String)
  deriving DecidableEq, Repr

/-- After reset every bit of the architectural state is zero (10_state.md R20; 70_reset_and_hazards.md
R160). No host signal is placed and no answer given (log entries 1 and 2). -/
def State.reset : State where
  tuple := { year := 0#16, month := 0#8, day := 0#8, wday := 0#8, hour := 0#8, min := 0#8, sec := 0#8 }
  acc := 0#32
  status := { illcmd := false, badbcd := false, range := false, wdbad := false }
  img := []
  host := []
  answer := .noAck

end Sys2Proof.Machine
end

