-- ==== Sys2Proof/Machine/Ops.lean ====
section
/-! DEFINITION. The named operations over the image memory, ACC, the tuple registers and STATUS.
`raise` is the block's only exception form (00_scope.md R6): it sets a flag and ends the command with
nothing else written; there is no entry to save for and no return (60_exceptions.md R140, R148, R149). -/

namespace Sys2Proof.Machine

/-- The byte at address a of a list of cells; an unlisted address reads as the reset value. -/
def Memory.read (m : Memory) (a : Nat) : Byte :=
  match m with
  | [] => Config.unlistedByte
  | (b, v) :: rest => if a = b then v else Memory.read rest a

/-- The cells but for those of address a. -/
def Memory.erase (m : Memory) (a : Nat) : Memory :=
  match m with
  | [] => []
  | (b, v) :: rest => if a = b then Memory.erase rest a else (b, v) :: Memory.erase rest a

/-- Put the cell (a, v) before the first cell of a higher address. -/
def Memory.insert (m : Memory) (a : Nat) (v : Byte) : Memory :=
  match m with
  | [] => [(a, v)]
  | (b, w) :: rest => if a < b then (a, v) :: (b, w) :: rest else (b, w) :: Memory.insert rest a v

/-- Store v at address a, keeping the canonical form: the value an unlisted address reads as is not
listed. -/
def Memory.write (m : Memory) (a : Nat) (v : Byte) : Memory :=
  if v = Config.unlistedByte then Memory.erase m a else Memory.insert (Memory.erase m a) a v

/-- Every address listed is above `lo` and the one before it, exists, and holds other than what an
unlisted address reads as. -/
def Memory.wfFrom (lo : Nat) (m : Memory) : Bool :=
  match m with
  | [] => true
  | (a, v) :: rest =>
    decide (lo ≤ a) && decide (a < Config.imgSize) && decide (v ≠ Config.unlistedByte) &&
      Memory.wfFrom (a + 1) rest

/-- The canonical form of the image memory: addresses strictly rising, all of them addresses of IMG
(20_memory.md R30), no entry equal to what an unlisted address reads as. -/
def Memory.wf (m : Memory) : Bool := Memory.wfFrom 0 m

/-- `MemRead(a, 1)` (00_scope.md R6). An address outside 0..11 does not exist (20_memory.md R30). -/
def readImg (a : Nat) (s : State) : Except Fault Byte :=
  if a < Config.imgSize then .ok (s.img.read a) else .error (.noSuchImgAddress a)

/-- `MemWrite(a, 1, v)` (00_scope.md R6). An address outside 0..11 does not exist (20_memory.md R30). -/
def writeImg (a : Nat) (v : Byte) (s : State) : Except Fault State :=
  if a < Config.imgSize then .ok { s with img := s.img.write a v } else .error (.noSuchImgAddress a)

/-- `MemWrite` of consecutive bytes from address a on, in index order (20_memory.md R37). -/
def writeImgBytes (a : Nat) (vs : List Byte) (s : State) : Except Fault State :=
  match vs with
  | [] => .ok s
  | v :: rest =>
    match writeImg a v s with
    | .ok t => writeImgBytes (a + 1) rest t
    | .error f => .error f

/-- The outcome of a command whose last act is a memory operation. -/
def finish (r : Except Fault State) : Host.Outcome State Fault Refusal :=
  match r with
  | .ok s => .next s
  | .error f => .fault f

/-- `ACC <- v` (10_state.md R13). -/
def State.setAcc (s : State) (v : Word) : State := { s with acc := v }

/-- `zext_32(T[f])` (00_scope.md R6; 42_tuple_access.md R111). -/
def State.readField (s : State) (f : Field) : Word :=
  match f with
  | .year => s.tuple.year.setWidth 32
  | .month => s.tuple.month.setWidth 32
  | .day => s.tuple.day.setWidth 32
  | .wday => s.tuple.wday.setWidth 32
  | .hour => s.tuple.hour.setWidth 32
  | .min => s.tuple.min.setWidth 32
  | .sec => s.tuple.sec.setWidth 32

/-- `T[f] <- v` with the bits above the register's width dropped (42_tuple_access.md R112). -/
def State.writeField (s : State) (f : Field) (v : Word) : State :=
  match f with
  | .year => { s with tuple := { s.tuple with year := v.setWidth 16 } }
  | .month => { s with tuple := { s.tuple with month := v.setWidth 8 } }
  | .day => { s with tuple := { s.tuple with day := v.setWidth 8 } }
  | .wday => { s with tuple := { s.tuple with wday := v.setWidth 8 } }
  | .hour => { s with tuple := { s.tuple with hour := v.setWidth 8 } }
  | .min => { s with tuple := { s.tuple with min := v.setWidth 8 } }
  | .sec => { s with tuple := { s.tuple with sec := v.setWidth 8 } }

/-- STATUS with the flag of cause c set (00_scope.md R6). -/
def Status.set (st : Status) (c : Cause) : Status :=
  match c with
  | .illcmd => { st with illcmd := true }
  | .badbcd => { st with badbcd := true }
  | .range => { st with range := true }
  | .wdbad => { st with wdbad := true }

/-- The flag of cause c (10_state.md R14). -/
def Status.get (st : Status) (c : Cause) : Bool :=
  match c with
  | .illcmd => st.illcmd
  | .badbcd => st.badbcd
  | .range => st.range
  | .wdbad => st.wdbad

/-- The cause code: the flag's bit number in STATUS (60_exceptions.md R141). -/
def Cause.code (c : Cause) : Nat :=
  match c with
  | .illcmd => 0
  | .badbcd => 1
  | .range => 2
  | .wdbad => 3

/-- STATUS as its port shows it: {0000, WDBAD, RANGE, BADBCD, ILLCMD} (20_memory.md R31). -/
def Status.toWord (st : Status) : Word :=
  BitVec.ofNat 32 (st.illcmd.toNat * 2 ^ Cause.illcmd.code + st.badbcd.toNat * 2 ^ Cause.badbcd.code +
    st.range.toNat * 2 ^ Cause.range.code + st.wdbad.toNat * 2 ^ Cause.wdbad.code)

/-- `STATUS.X <- 1` (00_scope.md R6). -/
def State.setFlag (s : State) (c : Cause) : State := { s with status := s.status.set c }

/-- `raise X`: the flag is set, the command ends, nothing else is written (00_scope.md R6;
60_exceptions.md R140, R148). -/
def raise (c : Cause) (s : State) : Host.Outcome State Fault Refusal := .next (s.setFlag c)

/-- `if cond then flag X`: the flag is set where the condition holds, and the command goes on
(00_scope.md R6). -/
def State.flagIf (s : State) (c : Cause) (cond : Bool) : State := if cond then s.setFlag c else s

end Sys2Proof.Machine
end

