-- ==== Sys2Proof/Machine/Operands.lean ====
section
/-! DEFINITION. The operand forms of 30_encoding.md R51. -/

namespace Sys2Proof.Machine

/-- Byte in ACC: ACC[7:0], with ACC[31:8] ignored (R51). Also the minute of an alarm time. -/
def State.accByte (s : State) : Byte := s.acc.setWidth 8

/-- Integer in ACC, and epoch in ACC: all 32 bits, unsigned (R51). -/
def State.accNat (s : State) : Nat := s.acc.toNat

/-- The hour of an alarm time in ACC: ACC[15:8], with ACC[31:16] ignored (R51). -/
def State.alarmHour (s : State) : Byte := BitVec.ofNat 8 (s.acc.toNat / 256)

/-- The minute of an alarm time in ACC: ACC[7:0] (R51). -/
def State.alarmMinute (s : State) : Byte := s.accByte

/-- A natural number as a result in ACC, zero-extended (R51). -/
def accResult (n : Nat) : Word := BitVec.ofNat 32 n

/-- An integer as a result in ACC: `trunc_32` (00_scope.md R6). -/
def accResultInt (z : Int) : Word := BitVec.ofInt 32 z

/-- `toepoch_z` of the six tuple registers that TOEPOCH and PACKCLK read; T[WDAY] is not read
(41_calendar_engine.md R99; 43_register_image.md R121). None for a month outside 1..12. -/
def Tuple.epochZ (t : Tuple) : Option Int :=
  toepochZ t.year.toNat t.month.toNat t.day.toNat t.hour.toNat t.min.toNat t.sec.toNat

end Sys2Proof.Machine
end

