-- ==== Sys2Proof/Machine/Flags.lean ====
section
/-! DEFINITION. The conditions under which a command sets a flag (60_exceptions.md R143, R144, R145). -/

namespace Sys2Proof.Machine

/-- BADBCD: a byte, taken after its mask, with a nibble above 9 (60_exceptions.md R143). -/
def malformedBcd (m : Byte) : Bool := decide (9 < nibHi m) || decide (9 < nibLo m)

/-- WDBAD: not exactly one of bits 6:0 set (60_exceptions.md R145). -/
def malformedWeekday (b : Byte) : Bool := decide (weekdayBits b ≠ 1)

/-- RANGE of DEC2BCD and of each alarm operand: outside 0..99 (60_exceptions.md R144). -/
def outOfTwoDigits (n : Nat) : Bool := decide (99 < n)

/-- RANGE of WDPACK: outside 0..6 (60_exceptions.md R144). -/
def outOfWeek (n : Nat) : Bool := decide (6 < n)

/-- RANGE of the commands whose operand is an epoch value (60_exceptions.md R144). -/
def outOfWindow (e : Nat) : Bool := !inWindow e

/-- RANGE of TOEPOCH and PACKCLK with a legal month: the tuple is out of contract (60_exceptions.md
R144; 41_calendar_engine.md R91). -/
def Tuple.outOfContract (t : Tuple) : Bool :=
  !inContract t.year.toNat t.month.toNat t.day.toNat t.hour.toNat t.min.toNat t.sec.toNat

end Sys2Proof.Machine
end

