-- ==== Sys2Proof/Machine/CalendarEngine.lean ====
section
/-! DEFINITION. The CalendarEngine commands (41_calendar_engine.md, section 3). -/

namespace Sys2Proof.Machine

/-- The shape of the scalar commands on an epoch value: RANGE outside the window, and the function's
result in ACC all the same (41_calendar_engine.md R93 to R98). -/
def epochScalar (f : Nat → Word) (s : State) : Host.Outcome State Fault Refusal :=
  .next ((s.flagIf .range (outOfWindow s.accNat)).setAcc (f s.accNat))

/-- DAYS (R93). -/
def execDays (s : State) : Host.Outcome State Fault Refusal :=
  epochScalar (fun e => accResult (days e)) s

/-- YEAROF (R94). -/
def execYearof (s : State) : Host.Outcome State Fault Refusal :=
  epochScalar (fun e => accResult (yearof e)) s

/-- DOY (R95). -/
def execDoy (s : State) : Host.Outcome State Fault Refusal :=
  epochScalar (fun e => accResultInt (doy e)) s

/-- MONTHOF (R96). -/
def execMonthof (s : State) : Host.Outcome State Fault Refusal :=
  epochScalar (fun e => accResult (monthof e)) s

/-- DAYOF (R97). -/
def execDayof (s : State) : Host.Outcome State Fault Refusal :=
  epochScalar (fun e => accResultInt (dayof e)) s

/-- WDOF (R98). -/
def execWdof (s : State) : Host.Outcome State Fault Refusal :=
  epochScalar (fun e => accResult (wdof e)) s

/-- TOEPOCH: refused for a month outside 1..12; otherwise the linear formula, flagged out of contract
(R99). -/
def execToepoch (s : State) : Host.Outcome State Fault Refusal :=
  match s.tuple.epochZ with
  | none => raise .range s
  | some z => .next ((s.flagIf .range s.tuple.outOfContract).setAcc (accResultInt z))

/-- FROMEPOCH: six tuple registers from the epoch value in ACC; T[WDAY] and ACC keep their values
(R100). -/
def execFromepoch (s : State) : Host.Outcome State Fault Refusal :=
  let e := s.accNat
  .next (((((((s.flagIf .range (outOfWindow e)).writeField .year (accResult (yearof e))).writeField
    .month (accResult (monthof e))).writeField .day (accResultInt (dayof e))).writeField
    .hour (accResult (hourof e))).writeField .min (accResult (minof e))).writeField
    .sec (accResult (secof e)))

end Sys2Proof.Machine
end

