-- ==== Sys2Proof/Machine/RegisterCodec.lean ====
section
/-! DEFINITION. The RegisterCodec commands (40_register_codec.md, section 2). -/

namespace Sys2Proof.Machine

/-- What BCD2DEC does for a field: mask, test the nibbles, decode (40_register_codec.md R66). -/
def bcd2decField (f : BcdField) (s : State) : Host.Outcome State Fault Refusal :=
  let m := s.accByte &&& decodeMask f
  .next ((s.flagIf .badbcd (malformedBcd m)).setAcc (accResult (bcd2dec m)))

/-- BCD2DEC YEAR (R66). -/
def execBcd2decYear (s : State) : Host.Outcome State Fault Refusal := bcd2decField .year s

/-- BCD2DEC MONTH (R66). -/
def execBcd2decMonth (s : State) : Host.Outcome State Fault Refusal := bcd2decField .month s

/-- BCD2DEC DAY (R66). -/
def execBcd2decDay (s : State) : Host.Outcome State Fault Refusal := bcd2decField .day s

/-- BCD2DEC HOUR (R66). -/
def execBcd2decHour (s : State) : Host.Outcome State Fault Refusal := bcd2decField .hour s

/-- BCD2DEC MIN (R66). -/
def execBcd2decMin (s : State) : Host.Outcome State Fault Refusal := bcd2decField .min s

/-- BCD2DEC SEC (R66). -/
def execBcd2decSec (s : State) : Host.Outcome State Fault Refusal := bcd2decField .sec s

/-- DEC2BCD (40_register_codec.md R67). -/
def execDec2bcd (s : State) : Host.Outcome State Fault Refusal :=
  .next ((s.flagIf .range (outOfTwoDigits s.accNat)).setAcc ((dec2bcd s.accNat).setWidth 32))

/-- WDPACK (40_register_codec.md R68). -/
def execWdpack (s : State) : Host.Outcome State Fault Refusal :=
  .next ((s.flagIf .range (outOfWeek s.accNat)).setAcc ((wdpack s.accNat).setWidth 32))

/-- WDUNPACK: the scan writes T[WDAY] and the value written goes to ACC (40_register_codec.md R69). -/
def execWdunpack (s : State) : Host.Outcome State Fault Refusal :=
  let w := (wdscan s.accByte s.tuple.wday).setWidth 32
  .next (((s.flagIf .wdbad (malformedWeekday s.accByte)).writeField .wday w).setAcc w)

/-- YEARDEC (40_register_codec.md R70). -/
def execYeardec (s : State) : Host.Outcome State Fault Refusal :=
  .next ((s.flagIf .badbcd (malformedBcd s.accByte)).setAcc (accResult (yeardec s.accByte)))

end Sys2Proof.Machine
end

