-- ==== Sys2Proof/Machine/RegisterImage.lean ====
section
/-! DEFINITION. The register image commands (43_register_image.md), over the layouts of 20_memory.md R35
and R36. -/

namespace Sys2Proof.Machine

/-- The clock-block base address, byte 0 of the clock image (20_memory.md R35, R43). -/
def clockBase : Byte := 0x00#8

/-- The alarm-block base address, byte 0 of the alarm image (20_memory.md R36, R43). -/
def alarmBase : Byte := 0x08#8

/-- The sentinel, and the value of a cleared alarm field (20_memory.md R36). -/
def alarmSentinel : Byte := 0x80#8

/-- The seven data bytes of the clock image after their decode masks (43_register_image.md R120). -/
structure ClockBytes where
  sec : Byte
  min : Byte
  hour : Byte
  wday : Byte
  day : Byte
  month : Byte
  year : Byte
  deriving DecidableEq, Repr

/-- The reads of UNPACKCLK, in its order: IMG[1..7], masked but for the weekday and the year
(43_register_image.md R120). IMG[0] is not read. -/
def readClockBytes (s : State) : Except Fault ClockBytes := do
  let bs ← readImg 1 s
  let bmi ← readImg 2 s
  let bh ← readImg 3 s
  let bw ← readImg 4 s
  let bd ← readImg 5 s
  let bmo ← readImg 6 s
  let byr ← readImg 7 s
  return {
    sec := bs &&& decodeMask .sec
    min := bmi &&& decodeMask .min
    hour := bh &&& decodeMask .hour
    wday := bw
    day := bd &&& decodeMask .day
    month := bmo &&& decodeMask .month
    year := byr &&& decodeMask .year }

/-- BADBCD of UNPACKCLK: any of the six masked BCD bytes (60_exceptions.md R143). -/
def ClockBytes.malformed (c : ClockBytes) : Bool :=
  malformedBcd c.sec || malformedBcd c.min || malformedBcd c.hour || malformedBcd c.day ||
    malformedBcd c.month || malformedBcd c.year

/-- The tuple that a clock image decodes to; a weekday byte with no bit 6:0 set keeps the previous
weekday (43_register_image.md R120). -/
def ClockBytes.tuple (c : ClockBytes) (prev : Byte) : Tuple where
  year := BitVec.ofNat 16 (yeardec c.year)
  month := BitVec.ofNat 8 (bcd2dec c.month)
  day := BitVec.ofNat 8 (bcd2dec c.day)
  wday := wdscan c.wday prev
  hour := BitVec.ofNat 8 (bcd2dec c.hour)
  min := BitVec.ofNat 8 (bcd2dec c.min)
  sec := BitVec.ofNat 8 (bcd2dec c.sec)

/-- UNPACKCLK (43_register_image.md R120). -/
def execUnpackclk (s : State) : Host.Outcome State Fault Refusal :=
  match readClockBytes s with
  | .error f => .fault f
  | .ok c =>
    .next { (s.flagIf .badbcd c.malformed).flagIf .wdbad (malformedWeekday c.wday) with
      tuple := c.tuple s.tuple.wday }

/-- The eight bytes PACKCLK stores for a tuple and its weekday, in index order (43_register_image.md
R121). No mask is applied on encode; the year is reduced mod 100. -/
def clockImage (t : Tuple) (w : Nat) : List Byte :=
  [clockBase, dec2bcd t.sec.toNat, dec2bcd t.min.toNat, dec2bcd t.hour.toNat, wdpack w,
   dec2bcd t.day.toNat, dec2bcd t.month.toNat, dec2bcd (t.year.toNat % 100)]

/-- PACKCLK: refused for a month outside 1..12; otherwise the image of the tuple, its weekday derived
from the wrapped epoch value (43_register_image.md R121). -/
def execPackclk (s : State) : Host.Outcome State Fault Refusal :=
  match s.tuple.epochZ with
  | none => raise .range s
  | some z =>
    finish (writeImgBytes 0 (clockImage s.tuple (wdof (accResultInt z).toNat))
      (s.flagIf .range s.tuple.outOfContract))

/-- PACKALM idx: the index is ignored (43_register_image.md R122; 30_encoding.md R50). -/
def execPackalm (_idx : Nat) (s : State) : Host.Outcome State Fault Refusal :=
  finish (writeImgBytes 8
    [alarmBase, dec2bcd s.alarmMinute.toNat, dec2bcd s.alarmHour.toNat, alarmSentinel]
    (s.flagIf .range (outOfTwoDigits s.alarmHour.toNat || outOfTwoDigits s.alarmMinute.toNat)))

/-- CLRALM (43_register_image.md R123). -/
def execClralm (s : State) : Host.Outcome State Fault Refusal :=
  finish (writeImgBytes 8 [alarmBase, alarmSentinel, alarmSentinel, alarmSentinel] s)

end Sys2Proof.Machine
end

