-- ==== Sys2Proof/Machine/TupleAccess.lean ====
section
/-! DEFINITION. The tuple access commands (42_tuple_access.md). -/

namespace Sys2Proof.Machine

/-- NOP: reads and writes nothing (42_tuple_access.md R110). -/
def execNop (s : State) : Host.Outcome State Fault Refusal := .next s

/-- What GETF does for a field (42_tuple_access.md R111). -/
def getField (f : Field) (s : State) : Host.Outcome State Fault Refusal :=
  .next (s.setAcc (s.readField f))

/-- What SETF does for a field: no check, no flag (42_tuple_access.md R112). -/
def setField (f : Field) (s : State) : Host.Outcome State Fault Refusal :=
  .next (s.writeField f s.acc)

/-- GETF YEAR (R111). -/
def execGetfYear (s : State) : Host.Outcome State Fault Refusal := getField .year s

/-- GETF MONTH (R111). -/
def execGetfMonth (s : State) : Host.Outcome State Fault Refusal := getField .month s

/-- GETF DAY (R111). -/
def execGetfDay (s : State) : Host.Outcome State Fault Refusal := getField .day s

/-- GETF WDAY (R111, R113). -/
def execGetfWday (s : State) : Host.Outcome State Fault Refusal := getField .wday s

/-- GETF HOUR (R111). -/
def execGetfHour (s : State) : Host.Outcome State Fault Refusal := getField .hour s

/-- GETF MIN (R111). -/
def execGetfMin (s : State) : Host.Outcome State Fault Refusal := getField .min s

/-- GETF SEC (R111). -/
def execGetfSec (s : State) : Host.Outcome State Fault Refusal := getField .sec s

/-- SETF YEAR (R112). -/
def execSetfYear (s : State) : Host.Outcome State Fault Refusal := setField .year s

/-- SETF MONTH (R112). -/
def execSetfMonth (s : State) : Host.Outcome State Fault Refusal := setField .month s

/-- SETF DAY (R112). -/
def execSetfDay (s : State) : Host.Outcome State Fault Refusal := setField .day s

/-- SETF WDAY (R112, R113). -/
def execSetfWday (s : State) : Host.Outcome State Fault Refusal := setField .wday s

/-- SETF HOUR (R112). -/
def execSetfHour (s : State) : Host.Outcome State Fault Refusal := setField .hour s

/-- SETF MIN (R112). -/
def execSetfMin (s : State) : Host.Outcome State Fault Refusal := setField .min s

/-- SETF SEC (R112). -/
def execSetfSec (s : State) : Host.Outcome State Fault Refusal := setField .sec s

end Sys2Proof.Machine
end

