-- ==== Sys2Proof/Machine/Dispatch.lean ====
section
/-! DEFINITION. The one dispatch from a command to its meaning: one arm per constructor of Instr. -/

namespace Sys2Proof.Machine

-- The command of a legal word performs the rule named in the opcode map (30_encoding.md R47, R48).
def exec (i : Instr) (s : State) : Host.Outcome State Fault Refusal :=
  match i with
  | .nop => Sys2Proof.Machine.execNop s
  | .bcd2decYear => Sys2Proof.Machine.execBcd2decYear s
  | .bcd2decMonth => Sys2Proof.Machine.execBcd2decMonth s
  | .bcd2decDay => Sys2Proof.Machine.execBcd2decDay s
  | .bcd2decHour => Sys2Proof.Machine.execBcd2decHour s
  | .bcd2decMin => Sys2Proof.Machine.execBcd2decMin s
  | .bcd2decSec => Sys2Proof.Machine.execBcd2decSec s
  | .dec2bcd => Sys2Proof.Machine.execDec2bcd s
  | .wdpack => Sys2Proof.Machine.execWdpack s
  | .wdunpack => Sys2Proof.Machine.execWdunpack s
  | .yeardec => Sys2Proof.Machine.execYeardec s
  | .days => Sys2Proof.Machine.execDays s
  | .yearof => Sys2Proof.Machine.execYearof s
  | .doy => Sys2Proof.Machine.execDoy s
  | .monthof => Sys2Proof.Machine.execMonthof s
  | .dayof => Sys2Proof.Machine.execDayof s
  | .wdof => Sys2Proof.Machine.execWdof s
  | .getfYear => Sys2Proof.Machine.execGetfYear s
  | .getfMonth => Sys2Proof.Machine.execGetfMonth s
  | .getfDay => Sys2Proof.Machine.execGetfDay s
  | .getfWday => Sys2Proof.Machine.execGetfWday s
  | .getfHour => Sys2Proof.Machine.execGetfHour s
  | .getfMin => Sys2Proof.Machine.execGetfMin s
  | .getfSec => Sys2Proof.Machine.execGetfSec s
  | .toepoch => Sys2Proof.Machine.execToepoch s
  | .setfYear => Sys2Proof.Machine.execSetfYear s
  | .setfMonth => Sys2Proof.Machine.execSetfMonth s
  | .setfDay => Sys2Proof.Machine.execSetfDay s
  | .setfWday => Sys2Proof.Machine.execSetfWday s
  | .setfHour => Sys2Proof.Machine.execSetfHour s
  | .setfMin => Sys2Proof.Machine.execSetfMin s
  | .setfSec => Sys2Proof.Machine.execSetfSec s
  | .fromepoch => Sys2Proof.Machine.execFromepoch s
  | .unpackclk => Sys2Proof.Machine.execUnpackclk s
  | .packclk => Sys2Proof.Machine.execPackclk s
  | .clralm => Sys2Proof.Machine.execClralm s
  | .packalm idx => Sys2Proof.Machine.execPackalm idx s

end Sys2Proof.Machine
end

