-- ==== Sys2Proof/Machine/Ports.lean ====
section
/-! DEFINITION. The port map (20_memory.md R31) and what a host read or write of a port other than CMD
does (R33, R34, R39). -/

namespace Sys2Proof.Machine

/-- The sixteen ports by name (20_memory.md R31). -/
inductive Port where
  /-- Port 0. -/
  | acc
  /-- Port 1. -/
  | cmd
  /-- Port 2. -/
  | status
  /-- Port 3. -/
  | reserved
  /-- Ports 4..15: CLK[0..7] and ALM[0..3], the bytes IMG[0..11]. -/
  | img (a : Nat)
  deriving DecidableEq, Repr

/-- The port of a port address (20_memory.md R31). -/
def portOf (pa : PortAddr) : Port :=
  match pa.toNat with
  | 0 => .acc
  | 1 => .cmd
  | 2 => .status
  | 3 => .reserved
  | a + 4 => .img a

/-- What a host read of a port returns; rdata above the port's width is 0 (20_memory.md R31, R33,
R34). -/
def readPort (p : Port) (s : State) : Except Fault Word :=
  match p with
  | .acc => .ok s.acc
  | .cmd => .ok 0#32
  | .status => .ok s.status.toWord
  | .reserved => .ok 0#32
  | .img a =>
    match readImg a s with
    | .ok b => .ok (b.setWidth 32)
    | .error f => .error f

/-- What a host write stores at a port; wdata above the port's width is ignored, and a write to STATUS
or to port 3 does nothing (20_memory.md R31, R33, R34, R39). A write to CMD stores nothing: what it
does is runCommand of Machine/Transaction.lean. -/
def storePort (p : Port) (v : Word) (s : State) : Except Fault State :=
  match p with
  | .acc => .ok (s.setAcc v)
  | .cmd => .ok s
  | .status => .ok s
  | .reserved => .ok s
  | .img a => writeImg a (v.setWidth 8) s

end Sys2Proof.Machine
end

