-- ==== Sys2Proof/Machine/Transaction.lean ====
section
/-! DEFINITION. One host transaction (20_memory.md R32), one bus cycle (R44) and reset
(70_reset_and_hazards.md R160). Machine/Step.lean only calls these. -/

namespace Sys2Proof.Machine

/-- A command word written to CMD: the command of a legal word (30_encoding.md R48), otherwise `raise
ILLCMD` (R49). -/
def runCommand (w : Byte) (s : State) : Host.Outcome State Fault Refusal :=
  match decode w with
  | .ok i => exec i s
  | .error _ => raise .illcmd s

/-- A host write: a command at CMD, with wdata[31:8] ignored (30_encoding.md R45, R48), a store
elsewhere (20_memory.md R31). -/
def hostWrite (pa : PortAddr) (v : Word) (s : State) : Host.Outcome State Fault Refusal :=
  match portOf pa with
  | .cmd => runCommand (v.setWidth 8) s
  | p => finish (storePort p v s)

/-- A host read: it changes nothing and answers with rdata (20_memory.md R31, R39, R44). -/
def hostRead (pa : PortAddr) (s : State) : Host.Outcome State Fault Refusal :=
  match readPort (portOf pa) s with
  | .ok v => .next { s with answer := .readData v }
  | .error f => .fault f

/-- A transaction, performed whole in the cycle of its `ack` (20_memory.md R32, R44). -/
def perform (r : Request) (s : State) : Host.Outcome State Fault Refusal :=
  if r.we then hostWrite r.pa r.wdata { s with answer := .written } else hostRead r.pa s

/-- Reset: every bit of the architectural state to its reset value, no answer; the host's signals still
to come are the host's and stay (70_reset_and_hazards.md R160; log entry 4). -/
def State.resetBlock (s : State) : State := { State.reset with host := s.host }

/-- The transaction on the pins in a cycle (20_memory.md R32, R44). -/
def BusCycle.request (c : BusCycle) : Request := { we := c.we, pa := c.pa, wdata := c.wdata }

/-- One clk edge with the input pins c (20_memory.md R44): `rst` high resets and abandons a request on
the pins; a request the block answers in this cycle is performed; in any other cycle nothing happens
and `ack` is low. R44 does not say whether a `req` still high in the cycle right after an `ack` is at
once a new transaction or must first fall. DESIGN CHOICE (unsafe, log entry 15): it is a new transaction,
so each cycle with `req` and `ready` high performs one. Nor do R44 and R160 say whether a `req` still
high after a cycle with `rst` high that abandoned it is a new transaction or the abandoned one. DESIGN
CHOICE (unsafe, log entry 16): it is a new transaction, performed in the next cycle with `ready` high. -/
def busCycle (c : BusCycle) (s : State) : Host.Outcome State Fault Refusal :=
  if c.rst then .next s.resetBlock
  else if c.req && c.ready then perform c.request s
  else .next { s with answer := .noAck }

/-- The next clk edge: the host's next input signals are taken. With no signal placed the block is idle
(60_exceptions.md R153; log entry 1). -/
def clkEdge (s : State) : Host.Outcome State Fault Refusal :=
  match s.host with
  | [] => .next { s with answer := .noAck }
  | c :: rest => busCycle c { s with host := rest }

/-- A transaction answered in the cycle it is raised. -/
def Request.answeredAtOnce (r : Request) : BusCycle where
  rst := false
  req := true
  we := r.we
  pa := r.pa
  wdata := r.wdata
  ready := true

/-- The host write of a command word to CMD (30_encoding.md R45, R52). -/
def commandRequest (w : Byte) : Request := { we := true, pa := 1#4, wdata := w.setWidth 32 }

end Sys2Proof.Machine
end

