-- ==== Sys2Proof/Machine/Step.lean ====
section
/-! DEFINITION. The step: one clk edge of 20_memory.md R44, with the host's next input signals. -/

namespace Sys2Proof.Machine

/-- One step (log entry 1). -/
def step (s : State) : Host.Outcome State Fault Refusal := clkEdge s

/-- The state in which the host's next transaction is the write to CMD of the low eight of the `nbits`
bits of w, so that the very next step runs that command. BCDCAL fetches nothing (10_state.md R18): its
program is the sequence of the host's writes to CMD (log entry 1). -/
def State.withFetchWord (s : State) (nbits w : Nat) : State :=
  { s with host := (commandRequest (commandByte nbits w)).answeredAtOnce :: s.host }

end Sys2Proof.Machine
end

