-- ==== Sys2Proof/Safety.lean ====
section
/-! DEFINITION. What counts as a good run, in the terms claims use. -/

namespace Sys2Proof.Machine

/-- STATUS = 0: no illegal word, refusal or broken contract since reset (60_exceptions.md R154). -/
def State.nothingWentWrong (s : State) : Bool :=
  !s.status.illcmd && !s.status.badbcd && !s.status.range && !s.status.wdbad

/-- The architectural state of 10_state.md R10: T, ACC, STATUS and IMG, without the model's own fields. -/
def State.architectural (s : State) : Tuple × Word × Status × Memory :=
  (s.tuple, s.acc, s.status, s.img)

/-- A cycle in which nothing can happen: no reset, and no request that the block answers (20_memory.md
R44). -/
def BusCycle.passes (c : BusCycle) : Bool := !c.rst && !(c.req && c.ready)

/-- The host's side of the handshake (20_memory.md R44): a request that is not answered stands unchanged
in the next cycle, unless reset comes. No meaning rests on it (log entry 5). -/
def holdsRequests : List BusCycle → Bool
  | [] => true
  | [_] => true
  | c :: d :: rest =>
    (c.rst || !c.req || c.ready || d.rst || (d.req && decide (d.request = c.request))) &&
      holdsRequests (d :: rest)

/-- The next cycle is one in which the block answers the transaction r, and `rest` are the cycles after
it (20_memory.md R32, R44). The cycle before it may have answered too, or have been a reset that
abandoned r: that this one is then a transaction of its own is the model's choice (log entries 15 and
16). -/
def State.answersNext (s : State) (r : Request) (rest : List BusCycle) : Prop :=
  ∃ c, s.host = c :: rest ∧ c.rst = false ∧ c.req = true ∧ c.ready = true ∧ c.request = r

/-- The thresholds of the twelve months in January's order, `TH(1, L)` to `TH(12, L)`, as the table of
41_calendar_engine.md R85 prints them. -/
def thresholds (L : Nat) : List Nat :=
  [0, 31, 59 + L, 90 + L, 120 + L, 151 + L, 181 + L, 212 + L, 243 + L, 273 + L, 304 + L, 334 + L]

/-- m is the month, and dm the day of the month, of day n (counted from 0) of a year: the last month
whose threshold n reaches (41_calendar_engine.md R85). -/
def IsMonthDay (L n m dm : Nat) : Prop :=
  1 ≤ m ∧ m ≤ 12 ∧ (thresholds L).getD (m - 1) 0 ≤ n ∧ (m = 12 ∨ n < (thresholds L).getD m 0) ∧
    dm = n - (thresholds L).getD (m - 1) 0 + 1

/-- w is what the weekday scan gives for the byte b and the previous value prev: the highest of bits 6:0
that is set, or prev where none is (40_register_codec.md R64). -/
def IsWeekdayScan (b prev w : Byte) : Prop :=
  (∀ i < 7, b.getLsbD i = false) ∧ w = prev ∨
    w.toNat < 7 ∧ b.getLsbD w.toNat = true ∧ ∀ i < 7, w.toNat < i → b.getLsbD i = false

/-- Exactly one of bits 6:0 is set (60_exceptions.md R145). -/
def OneWeekdayBit (b : Byte) : Prop :=
  ∃ i < 7, b.getLsbD i = true ∧ ∀ j < 7, b.getLsbD j = true → j = i

/-- The state that an outcome goes on with, if any. -/
def nextState (o : Host.Outcome State Fault Refusal) : Option State :=
  match o with
  | .next s => some s
  | .fault _ => none
  | .refused _ => none

end Sys2Proof.Machine
end

