-- ==== Sys2Proof/Certificates/Slice0/Obligations.lean ====
section
/-! DEFINITION. The statements for the provers. Each docstring names the rule of spec/ it formalises or
the sections it rests on. -/

open Sys2Proof Sys2Proof.Machine

/-- Decode and encode agree, for every command and every operand an encoding admits (30_encoding.md
R47, R48). -/
def Obligations.DecodeOfEncodeIsTheCommand : Prop :=
  ∀ i : Instr, i.wellFormed = true → decode (encode i) = .ok i

/-- A word has at most one command: the word of the command it decodes to is the word (30_encoding.md
R47, R48). -/
def Obligations.EncodeOfDecodeIsTheWord : Prop :=
  ∀ (w : Byte) (i : Instr), decode w = .ok i → encode i = w ∧ i.wellFormed = true

/-- The opcode map, word by word, with the number of its legal words (30_encoding.md R47). -/
def Obligations.OpcodeMapWordsDecode : Prop :=
  (∀ p ∈ [(0x00#8, Instr.nop), (0x10#8, .bcd2decYear), (0x11#8, .bcd2decMonth), (0x12#8, .bcd2decDay),
      (0x14#8, .bcd2decHour), (0x15#8, .bcd2decMin), (0x16#8, .bcd2decSec), (0x20#8, .dec2bcd),
      (0x21#8, .wdpack), (0x22#8, .wdunpack), (0x23#8, .yeardec), (0x30#8, .days), (0x31#8, .yearof),
      (0x32#8, .doy), (0x33#8, .monthof), (0x34#8, .dayof), (0x35#8, .wdof), (0x40#8, .getfYear),
      (0x41#8, .getfMonth), (0x42#8, .getfDay), (0x43#8, .getfWday), (0x44#8, .getfHour),
      (0x45#8, .getfMin), (0x46#8, .getfSec), (0x47#8, .toepoch), (0x50#8, .setfYear),
      (0x51#8, .setfMonth), (0x52#8, .setfDay), (0x53#8, .setfWday), (0x54#8, .setfHour),
      (0x55#8, .setfMin), (0x56#8, .setfSec), (0x57#8, .fromepoch), (0x60#8, .unpackclk),
      (0x61#8, .packclk), (0x62#8, .clralm)], decode p.1 = .ok p.2) ∧
    (∀ k < 16, decode (BitVec.ofNat 8 (0x70 + k)) = .ok (.packalm k)) ∧
    (List.range 256).countP (fun n => (decodeTableWord 8 n).isSome) = 52

/-- The illegal words are those of the list, and one written to CMD sets ILLCMD and changes nothing else
of the architectural state (30_encoding.md R49; 20_memory.md R31, R32). The step takes the cycle off the
host's signals and answers the write. Which cycles answer a write is the model's choice: any with the
ready bit (log entry 3), right after an `ack` too (log entry 15), and one of a request that a reset
abandoned (log entry 16). -/
def Obligations.IllegalWordSetsIllcmdAlone : Prop :=
  ∀ w : Byte,
    let opc := w.toNat / 16
    let sel := w.toNat % 16
    let illegal := opc = 0 ∧ sel ≠ 0 ∨ opc = 1 ∧ (sel = 3 ∨ sel = 7 ∨ 8 ≤ sel) ∨ opc = 2 ∧ 4 ≤ sel ∨
      opc = 3 ∧ 6 ≤ sel ∨ (opc = 4 ∨ opc = 5) ∧ 8 ≤ sel ∨ opc = 6 ∧ 3 ≤ sel ∨ 8 ≤ opc
    ((∃ i, decode w = .ok i) ↔ ¬illegal) ∧
      (illegal → ∀ (s : State) (v : Word) (rest : List BusCycle),
        s.answersNext { we := true, pa := 1#4, wdata := v } rest → v.setWidth 8 = w →
          ∃ t, step s = .next t ∧ t.tuple = s.tuple ∧ t.acc = s.acc ∧ t.img = s.img ∧
            t.status = { s.status with illcmd := true } ∧ t.host = rest ∧ t.answer = .written)

/-- A step that answers a write of a legal word to CMD runs the command it decodes to; so does the step
after withFetchWord (the model's choice of how a program is placed, log entry 1). The step takes the
cycle off the host's signals and answers the write; exec adds the command's effect (20_memory.md R31,
R32; 30_encoding.md R48). That this holds right after an `ack`, and of a request that a reset
abandoned, is the model's choice (log entries 15 and 16). -/
def Obligations.StepRunsTheDecodedCommand : Prop :=
  (∀ (s : State) (v : Word) (rest : List BusCycle) (i : Instr),
    s.answersNext { we := true, pa := 1#4, wdata := v } rest → decode (v.setWidth 8) = .ok i →
      step s = exec i { s with host := rest, answer := .written }) ∧
  ∀ (s : State) (w : Nat) (i : Instr), decode (BitVec.ofNat 8 w) = .ok i →
    step (s.withFetchWord 8 w) = exec i { s with answer := .written }

/-- What a host read of each port returns, and that it changes nothing (20_memory.md R31, R33, R34,
R39). That this holds right after an `ack`, and of a request that a reset abandoned, is the model's
choice (log entries 15 and 16). -/
def Obligations.PortReadReturnsTheMappedValue : Prop :=
  ∀ (s : State) (pa : PortAddr) (v : Word) (rest : List BusCycle),
    s.answersNext { we := false, pa := pa, wdata := v } rest →
      step s = .next { s with
        host := rest
        answer := .readData
          (if pa.toNat = 0 then s.acc
          else if pa.toNat = 2 then
            BitVec.ofNat 32 (s.status.illcmd.toNat + 2 * s.status.badbcd.toNat +
              4 * s.status.range.toNat + 8 * s.status.wdbad.toNat)
          else if 4 ≤ pa.toNat then (s.img.read (pa.toNat - 4)).setWidth 32
          else 0#32) }

/-- What a host write of a port other than CMD stores, and that it changes nothing else and sets no flag
(20_memory.md R31, R33, R34, R39). That this holds right after an `ack`, and of a request that a
reset abandoned, is the model's choice (log entries 15 and 16). -/
def Obligations.PortWriteStoresOrDoesNothing : Prop :=
  ∀ (s : State) (pa : PortAddr) (v : Word) (rest : List BusCycle), pa ≠ 1#4 →
    s.answersNext { we := true, pa := pa, wdata := v } rest →
      ∃ t, step s = .next t ∧ t.tuple = s.tuple ∧ t.status = s.status ∧ t.host = rest ∧
        t.answer = .written ∧ t.acc = (if pa.toNat = 0 then v else s.acc) ∧
        ∀ a, t.img.read a = if 4 ≤ pa.toNat ∧ a = pa.toNat - 4 then v.setWidth 8 else s.img.read a

/-- A cycle with no reset and no answered request changes nothing and leaves ack low (20_memory.md R44).
The last clause, that the block is idle where no host signal is placed, is the model's choice (log
entry 1; 60_exceptions.md R153). -/
def Obligations.WaitingCycleChangesNothing : Prop :=
  (∀ (s : State) (c : BusCycle) (rest : List BusCycle), s.host = c :: rest → c.passes = true →
    step s = .next { s with host := rest, answer := .noAck }) ∧
  ∀ s : State, s.host = [] → step s = .next { s with answer := .noAck }

/-- Every bit is zero after reset, whatever request stands on the pins; and the reset tuple is refused by
TOEPOCH and PACKCLK (10_state.md R20). -/
def Obligations.ResetZeroesEveryBit : Prop :=
  let zero (t : State) : Prop :=
    t.tuple = { year := 0, month := 0, day := 0, wday := 0, hour := 0, min := 0, sec := 0 } ∧
      t.acc = 0 ∧ t.status = { illcmd := false, badbcd := false, range := false, wdbad := false } ∧
      ∀ a, t.img.read a = 0
  zero State.reset ∧
    (∀ (s : State) (c : BusCycle) (rest : List BusCycle), s.host = c :: rest → c.rst = true →
      ∃ t, step s = .next t ∧ zero t) ∧
    ∀ s : State, zero s → ∀ i ∈ [Instr.toepoch, Instr.packclk],
      exec i s = .next { s with status := { s.status with range := true } }

/-- A cycle with `rst` high performs no transaction, whatever request stands on the pins, and resets the
block (70_reset_and_hazards.md R160). That the host's later signals stay and that ack is low in the cycle
is the model's choice (log entry 4). -/
def Obligations.ResetAbandonsTheRequest : Prop :=
  ∀ (s : State) (c : BusCycle) (rest : List BusCycle), s.host = c :: rest → c.rst = true →
    step s = .next { State.reset with host := rest }

/-- The reset memory has the canonical form (the model's own choice of form, log entry 8). -/
def Obligations.ResetMemoryIsCanonical : Prop := State.reset.img.wf = true

/-- Every step keeps the canonical form of the image memory: addresses of IMG only, strictly rising, no
listed byte equal to an unlisted one (20_memory.md R30; the form is the model's own choice,
log entry 8). -/
def Obligations.StepKeepsMemoryCanonical : Prop :=
  ∀ s t : State, s.img.wf = true → step s = .next t → t.img.wf = true

/-- A STATUS flag once set stays set: only a step that takes a reset clears one (10_state.md R15). -/
def Obligations.FlagsStaySetUntilReset : Prop :=
  ∀ (s t : State) (x : Cause), step s = .next t → s.status.get x = true → t.status.get x = false →
    ∃ c rest, s.host = c :: rest ∧ c.rst = true

/-- No flag influences a command: from any STATUS it does what it does from STATUS = 0, and STATUS
becomes the union (10_state.md R15; 60_exceptions.md R146, R149). -/
def Obligations.FlagsNeverInfluenceACommand : Prop :=
  ∀ (i : Instr) (s : State), ∃ t,
    exec i { s with status := State.reset.status } = .next t ∧
      ∀ st : Status, exec i { s with status := st } = .next { t with
        status := { illcmd := st.illcmd || t.status.illcmd, badbcd := st.badbcd || t.status.badbcd,
                    range := st.range || t.status.range, wdbad := st.wdbad || t.status.wdbad } }

/-- No step ever stops: every command, port access and reset answers a next state, in every state
(60_exceptions.md R140; 70_reset_and_hazards.md R173). -/
def Obligations.EveryStepAnswersANextState : Prop := ∀ s : State, ∃ t, step s = .next t

/-- Which commands may change which state (10_state.md R12; 70_reset_and_hazards.md R163;
20_memory.md R39): each tuple register, ACC, the clock image and the alarm image have their writers and
no other command changes them; no command touches the host's signals or the answer. -/
def Obligations.CommandsWriteOnlyTheirOwnState : Prop :=
  ∀ (i : Instr) (s t : State), exec i s = .next t →
    (t.tuple.year ≠ s.tuple.year → i ∈ [Instr.setfYear, .fromepoch, .unpackclk]) ∧
    (t.tuple.month ≠ s.tuple.month → i ∈ [Instr.setfMonth, .fromepoch, .unpackclk]) ∧
    (t.tuple.day ≠ s.tuple.day → i ∈ [Instr.setfDay, .fromepoch, .unpackclk]) ∧
    (t.tuple.wday ≠ s.tuple.wday → i ∈ [Instr.setfWday, .wdunpack, .unpackclk]) ∧
    (t.tuple.hour ≠ s.tuple.hour → i ∈ [Instr.setfHour, .fromepoch, .unpackclk]) ∧
    (t.tuple.min ≠ s.tuple.min → i ∈ [Instr.setfMin, .fromepoch, .unpackclk]) ∧
    (t.tuple.sec ≠ s.tuple.sec → i ∈ [Instr.setfSec, .fromepoch, .unpackclk]) ∧
    (t.acc ≠ s.acc → i ∉ [Instr.nop, .setfYear, .setfMonth, .setfDay, .setfWday, .setfHour, .setfMin,
      .setfSec, .fromepoch, .unpackclk, .packclk, .clralm] ∧ ∀ idx, i ≠ .packalm idx) ∧
    (∀ a < 8, t.img.read a ≠ s.img.read a → i = .packclk) ∧
    (∀ a, 8 ≤ a → t.img.read a ≠ s.img.read a → a < 12 ∧ (i = .clralm ∨ ∃ idx, i = .packalm idx)) ∧
    t.host = s.host ∧ t.answer = s.answer

/-- When RANGE is set, for every command, and that a command refused for its month writes nothing else
(60_exceptions.md R144). -/
def Obligations.RangeIsSetExactlyWhenOutOfContract : Prop :=
  ∀ (i : Instr) (s t : State), exec i s = .next t →
    let e := s.acc.toNat
    let badMonth := s.tuple.month.toNat < 1 ∨ 12 < s.tuple.month.toNat
    let inContract := (s.tuple.year.toNat < 70 ∨ 1970 ≤ s.tuple.year.toNat ∧ s.tuple.year.toNat ≤ 2069) ∧
      1 ≤ s.tuple.day.toNat ∧ s.tuple.day.toNat ≤ 31 ∧ s.tuple.hour.toNat ≤ 23 ∧
      s.tuple.min.toNat ≤ 59 ∧ s.tuple.sec.toNat ≤ 59
    (t.status.range = true ↔ s.status.range = true ∨
      match i with
      | .dec2bcd => 99 < e
      | .wdpack => 6 < e
      | .days | .yearof | .doy | .monthof | .dayof | .wdof | .fromepoch => 3155760000 ≤ e
      | .toepoch | .packclk => badMonth ∨ ¬inContract
      | .packalm _ => 99 < e / 256 % 256 ∨ 99 < e % 256
      | _ => False) ∧
    (i = .toepoch ∨ i = .packclk → badMonth →
      t = { s with status := { s.status with range := true } })

/-- When BADBCD is set, for every command (60_exceptions.md R143). -/
def Obligations.BadbcdIsSetExactlyForAMalformedByte : Prop :=
  ∀ (i : Instr) (s t : State), exec i s = .next t →
    let bad (n : Nat) : Prop := 9 < n / 16 ∨ 9 < n % 16
    let e := s.acc.toNat
    let b (a : Nat) : Nat := (s.img.read a).toNat
    (t.status.badbcd = true ↔ s.status.badbcd = true ∨
      match i with
      | .bcd2decYear | .yeardec => bad (e % 256)
      | .bcd2decMonth => bad (e % 32)
      | .bcd2decDay | .bcd2decHour => bad (e % 64)
      | .bcd2decMin | .bcd2decSec => bad (e % 128)
      | .unpackclk => bad (b 1 % 128) ∨ bad (b 2 % 128) ∨ bad (b 3 % 64) ∨ bad (b 5 % 64) ∨
          bad (b 6 % 32) ∨ bad (b 7)
      | _ => False)

/-- When WDBAD is set, for every command (60_exceptions.md R145). -/
def Obligations.WdbadIsSetExactlyForAMalformedWeekday : Prop :=
  ∀ (i : Instr) (s t : State), exec i s = .next t →
    (t.status.wdbad = true ↔ s.status.wdbad = true ∨
      match i with
      | .wdunpack => ¬OneWeekdayBit (s.acc.setWidth 8)
      | .unpackclk => ¬OneWeekdayBit (s.img.read 4)
      | _ => False)

/-- BCD2DEC f: words, mask, value, flag, and nothing else changed; the selectors WDAY, EPOCH and 8..15
have no command (40_register_codec.md R66). -/
def Obligations.Bcd2decWritesTheMaskedDecimal : Prop :=
  (∀ p ∈ [(0x10#8, Instr.bcd2decYear, 0xFF#8), (0x11#8, .bcd2decMonth, 0x1F#8),
      (0x12#8, .bcd2decDay, 0x3F#8), (0x14#8, .bcd2decHour, 0x3F#8), (0x15#8, .bcd2decMin, 0x7F#8),
      (0x16#8, .bcd2decSec, 0x7F#8)],
    decode p.1 = .ok p.2.1 ∧ ∀ s : State,
      let m := (s.acc.setWidth 8 &&& p.2.2).toNat
      exec p.2.1 s = .next { s with
        acc := BitVec.ofNat 32 (m / 16 * 10 + m % 16)
        status := { s.status with badbcd := s.status.badbcd || decide (9 < m / 16 ∨ 9 < m % 16) } }) ∧
  ∀ sel ∈ [3, 7, 8, 9, 10, 11, 12, 13, 14, 15], ∀ i, decode (BitVec.ofNat 8 (0x10 + sel)) ≠ .ok i

/-- DEC2BCD (40_register_codec.md R67). -/
def Obligations.Dec2bcdWritesTheBcdByte : Prop :=
  decode 0x20#8 = .ok .dec2bcd ∧ ∀ s : State,
    exec .dec2bcd s = .next { s with
      acc := BitVec.ofNat 32 ((s.acc.toNat / 10 * 16 + s.acc.toNat % 10) % 256)
      status := { s.status with range := s.status.range || decide (99 < s.acc.toNat) } }

/-- WDPACK: the low byte of 2^w for every 32-bit w (40_register_codec.md R68). -/
def Obligations.WdpackWritesTheLowByteOfThePower : Prop :=
  decode 0x21#8 = .ok .wdpack ∧ ∀ s : State,
    exec .wdpack s = .next { s with
      acc := BitVec.ofNat 32 (2 ^ s.acc.toNat % 256)
      status := { s.status with range := s.status.range || decide (6 < s.acc.toNat) } }

/-- WDUNPACK: the highest set bit of bits 6:0, or the previous weekday, to T[WDAY] and ACC; WDBAD unless
exactly one bit is set (40_register_codec.md R69). -/
def Obligations.WdunpackScansTheWeekdayByte : Prop :=
  decode 0x22#8 = .ok .wdunpack ∧ ∀ s : State, ∃ t,
    exec .wdunpack s = .next t ∧
      IsWeekdayScan (s.acc.setWidth 8) s.tuple.wday t.tuple.wday ∧
      t.tuple = { s.tuple with wday := t.tuple.wday } ∧ t.acc = t.tuple.wday.setWidth 32 ∧
      t.status = { s.status with wdbad := t.status.wdbad } ∧
      (t.status.wdbad = true ↔ s.status.wdbad = true ∨ ¬OneWeekdayBit (s.acc.setWidth 8)) ∧
      t.img = s.img ∧ t.host = s.host ∧ t.answer = s.answer

/-- YEARDEC: the two-digit year with pivot 70 (40_register_codec.md R70). -/
def Obligations.YeardecAppliesThePivot : Prop :=
  decode 0x23#8 = .ok .yeardec ∧ ∀ s : State,
    let b := s.acc.toNat % 256
    let d := b / 16 * 10 + b % 16
    exec .yeardec s = .next { s with
      acc := BitVec.ofNat 32 (if d < 70 then 2000 + d else 1900 + d)
      status := { s.status with badbcd := s.status.badbcd || decide (9 < b / 16 ∨ 9 < b % 16) } }

/-- BCD round trip, in commands and on bytes (40_register_codec.md R71). -/
def Obligations.BcdRoundTrips : Prop :=
  (∀ s : State, s.acc.toNat ≤ 99 →
    ∃ t, exec .dec2bcd s = .next t ∧ exec .bcd2decYear t = .next s) ∧
  ∀ b : Byte, b.toNat / 16 ≤ 9 → b.toNat % 16 ≤ 9 → Machine.dec2bcd (bcd2dec b) = b

/-- DAYS, YEAROF, DOY and WDOF write their formula of the epoch value in ACC, and set RANGE outside the
window (41_calendar_engine.md R93, R94, R95, R98). -/
def Obligations.EpochScalarsWriteTheirFormula : Prop :=
  decode 0x30#8 = .ok .days ∧ decode 0x31#8 = .ok .yearof ∧ decode 0x32#8 = .ok .doy ∧
    decode 0x35#8 = .ok .wdof ∧ ∀ s : State,
      let e := s.acc.toNat
      let d := e / 86400
      let yo := (4 * d + 2) / 1461
      let result (n : Nat) : State := { s with
        acc := BitVec.ofNat 32 n
        status := { s.status with range := s.status.range || decide (3155760000 ≤ e) } }
      exec .days s = .next (result d) ∧
      exec .yearof s = .next (result (1970 + yo)) ∧
      (yo * 365 + (yo + 1) / 4 ≤ d ∧
        exec .doy s = .next (result (d - (yo * 365 + (yo + 1) / 4)))) ∧
      exec .wdof s = .next (result ((d + 4) % 7))

/-- MONTHOF and DAYOF write the month and the day of the month that the ladder of thresholds gives, and
set RANGE outside the window (41_calendar_engine.md R96, R97). -/
def Obligations.MonthofAndDayofFollowTheLadder : Prop :=
  decode 0x33#8 = .ok .monthof ∧ decode 0x34#8 = .ok .dayof ∧ ∀ s : State,
    let e := s.acc.toNat
    let d := e / 86400
    let yo := (4 * d + 2) / 1461
    let L := if (1970 + yo) % 4 = 0 then 1 else 0
    let result (n : Nat) : State := { s with
      acc := BitVec.ofNat 32 n
      status := { s.status with range := s.status.range || decide (3155760000 ≤ e) } }
    ∃ m dm, IsMonthDay L (d - (yo * 365 + (yo + 1) / 4)) m dm ∧
      exec .monthof s = .next (result m) ∧ exec .dayof s = .next (result dm)

/-- The year of an epoch value is exact, the day of the year lies in its year, and the ladder inverts the
month offsets (41_calendar_engine.md R101). -/
def Obligations.YearofIsExactAndMonthdayInverts : Prop :=
  (∀ q r : Nat, r < 1461 →
    let k := if r < 365 then 0 else if r < 730 then 1 else if r < 1096 then 2 else 3
    (4 * (1461 * q + r) + 2) / 1461 = 4 * q + k ∧
      ystart ((4 * q + k : Nat) : Int) =
        1461 * q + (if k = 0 then 0 else if k = 1 then 365 else if k = 2 then 730 else 1096)) ∧
  (∀ e : Nat, ystart (yearoff e) ≤ days e ∧ (days e : Int) < ystart ((yearoff e : Int) + 1) ∧
    0 ≤ doy e ∧ doy e ≤ 364 + leap (yearof e)) ∧
  ∀ (yo mo dm e : Nat) (off : Int), moff mo (leap (1970 + yo)) = some off → 1 ≤ dm →
    (mo = 12 ∧ dm ≤ 31 ∨ ∃ th, threshold (mo + 1) (leap (1970 + yo)) = some th ∧ off + dm < th) →
    (days e : Int) = ystart yo + off + dm →
      yearof e = 1970 + yo ∧ monthof e = mo ∧ dayof e = dm

/-- TOEPOCH: refused for a month outside 1..12; otherwise the linear formula over the integers, reduced
to 32 bits, with RANGE out of contract (41_calendar_engine.md R99). -/
def Obligations.ToepochComputesTheEpochOrRefuses : Prop :=
  decode 0x47#8 = .ok .toepoch ∧ ∀ s : State,
    let y := s.tuple.year.toNat
    let mo := s.tuple.month.toNat
    let d := s.tuple.day.toNat
    let h := s.tuple.hour.toNat
    let mi := s.tuple.min.toNat
    let sec := s.tuple.sec.toNat
    let Y := if y < 100 then y + 2000 else y
    let L : Int := if Y % 4 = 0 then 1 else 0
    let outside : Bool :=
      decide (¬(1970 ≤ Y ∧ Y ≤ 2069 ∧ 1 ≤ d ∧ d ≤ 31 ∧ h ≤ 23 ∧ mi ≤ 59 ∧ sec ≤ 59))
    let yo : Int := (Y : Int) - 1970
    let off : Int := [-1, 30, 58 + L, 89 + L, 119 + L, 150 + L, 180 + L, 211 + L, 242 + L, 272 + L,
      303 + L, 333 + L].getD (mo - 1) 0
    let dd := yo * 365 + (yo + 1) / 4 + off + d
    (mo < 1 ∨ 12 < mo → exec .toepoch s = .next { s with status := { s.status with range := true } }) ∧
    (1 ≤ mo → mo ≤ 12 → exec .toepoch s = .next { s with
      acc := BitVec.ofInt 32 (((dd * 24 + h) * 60 + mi) * 60 + sec)
      status := { s.status with range := s.status.range || outside } })

/-- FROMEPOCH: six tuple registers from the epoch value in ACC; T[WDAY], ACC and IMG keep their values
(41_calendar_engine.md R100). -/
def Obligations.FromepochDecomposesTheEpoch : Prop :=
  decode 0x57#8 = .ok .fromepoch ∧ ∀ s : State,
    let e := s.acc.toNat
    let d := e / 86400
    let yo := (4 * d + 2) / 1461
    let L := if (1970 + yo) % 4 = 0 then 1 else 0
    ∃ m dm, IsMonthDay L (d - (yo * 365 + (yo + 1) / 4)) m dm ∧
      1970 + yo < 65536 ∧ dm < 256 ∧
      exec .fromepoch s = .next { s with
        tuple := { year := BitVec.ofNat 16 (1970 + yo), month := BitVec.ofNat 8 m,
                   day := BitVec.ofNat 8 dm, wday := s.tuple.wday,
                   hour := BitVec.ofNat 8 (e / 3600 % 24), min := BitVec.ofNat 8 (e / 60 % 60),
                   sec := BitVec.ofNat 8 (e % 60) }
        status := { s.status with range := s.status.range || decide (3155760000 ≤ e) } }

/-- Epoch round trip: FROMEPOCH then TOEPOCH leaves ACC, for every 32-bit epoch value
(41_calendar_engine.md R92), and inside the window sets no flag (R91, R99, R100; 95_test_vectors.md
V1.1). -/
def Obligations.EpochRoundTrips : Prop :=
  ∀ s : State, ∃ t u, exec .fromepoch s = .next t ∧ exec .toepoch t = .next u ∧
    u.acc = s.acc ∧ u.tuple = t.tuple ∧ u.img = s.img ∧
    (s.acc.toNat < 3155760000 → u.status = s.status)

/-- Reverse round trip: for every date of the window that exists under the `mod 4` rule, and every time of
day, FROMEPOCH after TOEPOCH changes nothing (41_calendar_engine.md R99, R100, R101; 95_test_vectors.md
V2.3). -/
def Obligations.DateRoundTrips : Prop :=
  ∀ s : State,
    let y := s.tuple.year.toNat
    let mo := s.tuple.month.toNat
    let d := s.tuple.day.toNat
    let L := if y % 4 = 0 then 1 else 0
    1970 ≤ y → y ≤ 2069 → 1 ≤ mo → mo ≤ 12 → 1 ≤ d →
      (d ≤ (if mo = 12 then 31 else (thresholds L).getD mo 0 - (thresholds L).getD (mo - 1) 0)) →
      s.tuple.hour.toNat ≤ 23 → s.tuple.min.toNat ≤ 59 → s.tuple.sec.toNat ≤ 59 →
        ∃ t, exec .toepoch s = .next t ∧ exec .fromepoch t = .next t ∧ t.tuple = s.tuple ∧
          t.status = s.status

/-- NOP leaves the state as it is (42_tuple_access.md R110). -/
def Obligations.NopChangesNothing : Prop :=
  decode 0x00#8 = .ok .nop ∧ ∀ s : State, exec .nop s = .next s

/-- GETF f: the register, zero-extended, to ACC, and nothing else (42_tuple_access.md R111). -/
def Obligations.GetfCopiesTheFieldToAcc : Prop :=
  decode 0x40#8 = .ok .getfYear ∧ decode 0x41#8 = .ok .getfMonth ∧ decode 0x42#8 = .ok .getfDay ∧
    decode 0x43#8 = .ok .getfWday ∧ decode 0x44#8 = .ok .getfHour ∧ decode 0x45#8 = .ok .getfMin ∧
    decode 0x46#8 = .ok .getfSec ∧ ∀ s : State,
      exec .getfYear s = .next { s with acc := BitVec.ofNat 32 s.tuple.year.toNat } ∧
      exec .getfMonth s = .next { s with acc := BitVec.ofNat 32 s.tuple.month.toNat } ∧
      exec .getfDay s = .next { s with acc := BitVec.ofNat 32 s.tuple.day.toNat } ∧
      exec .getfWday s = .next { s with acc := BitVec.ofNat 32 s.tuple.wday.toNat } ∧
      exec .getfHour s = .next { s with acc := BitVec.ofNat 32 s.tuple.hour.toNat } ∧
      exec .getfMin s = .next { s with acc := BitVec.ofNat 32 s.tuple.min.toNat } ∧
      exec .getfSec s = .next { s with acc := BitVec.ofNat 32 s.tuple.sec.toNat }

/-- SETF f: the low bits of ACC to the register, unchecked, and nothing else (42_tuple_access.md R112). -/
def Obligations.SetfStoresTheLowBitsOfAcc : Prop :=
  decode 0x50#8 = .ok .setfYear ∧ decode 0x51#8 = .ok .setfMonth ∧ decode 0x52#8 = .ok .setfDay ∧
    decode 0x53#8 = .ok .setfWday ∧ decode 0x54#8 = .ok .setfHour ∧ decode 0x55#8 = .ok .setfMin ∧
    decode 0x56#8 = .ok .setfSec ∧ ∀ s : State,
      let v := s.acc.toNat
      let T := s.tuple
      exec .setfYear s = .next { s with tuple := { T with year := BitVec.ofNat 16 v } } ∧
      exec .setfMonth s = .next { s with tuple := { T with month := BitVec.ofNat 8 v } } ∧
      exec .setfDay s = .next { s with tuple := { T with day := BitVec.ofNat 8 v } } ∧
      exec .setfWday s = .next { s with tuple := { T with wday := BitVec.ofNat 8 v } } ∧
      exec .setfHour s = .next { s with tuple := { T with hour := BitVec.ofNat 8 v } } ∧
      exec .setfMin s = .next { s with tuple := { T with min := BitVec.ofNat 8 v } } ∧
      exec .setfSec s = .next { s with tuple := { T with sec := BitVec.ofNat 8 v } }

/-- UNPACKCLK: the tuple from IMG[1..7], masked; BADBCD and WDBAD; ACC and IMG unchanged
(43_register_image.md R120). -/
def Obligations.UnpackclkDecodesTheClockImage : Prop :=
  decode 0x60#8 = .ok .unpackclk ∧ ∀ s : State,
    let b (a : Nat) : Nat := (s.img.read a).toNat
    let dec (n : Nat) : Nat := n / 16 * 10 + n % 16
    let bad (n : Nat) : Bool := decide (9 < n / 16 ∨ 9 < n % 16)
    let yy := dec (b 7)
    ∃ w wd, IsWeekdayScan (s.img.read 4) s.tuple.wday w ∧
      (wd = true ↔ ¬OneWeekdayBit (s.img.read 4)) ∧
      exec .unpackclk s = .next { s with
        tuple := { year := BitVec.ofNat 16 (if yy < 70 then 2000 + yy else 1900 + yy),
                   month := BitVec.ofNat 8 (dec (b 6 % 32)), day := BitVec.ofNat 8 (dec (b 5 % 64)),
                   wday := w, hour := BitVec.ofNat 8 (dec (b 3 % 64)),
                   min := BitVec.ofNat 8 (dec (b 2 % 128)), sec := BitVec.ofNat 8 (dec (b 1 % 128)) }
        status := { s.status with
          badbcd := s.status.badbcd || bad (b 1 % 128) || bad (b 2 % 128) || bad (b 3 % 64) ||
            bad (b 5 % 64) || bad (b 6 % 32) || bad (b 7)
          wdbad := s.status.wdbad || wd } }

/-- PACKCLK: refused for a month outside 1..12; otherwise the eight bytes of the clock image, with the
weekday of the wrapped epoch value, RANGE out of contract, and every other byte, the tuple and ACC as
before (43_register_image.md R121). -/
def Obligations.PackclkStoresTheClockImageOrRefuses : Prop :=
  decode 0x61#8 = .ok .packclk ∧ ∀ s : State,
    let y := s.tuple.year.toNat
    let mo := s.tuple.month.toNat
    let d := s.tuple.day.toNat
    let h := s.tuple.hour.toNat
    let mi := s.tuple.min.toNat
    let sec := s.tuple.sec.toNat
    let Y := if y < 100 then y + 2000 else y
    let L : Int := if Y % 4 = 0 then 1 else 0
    let outside : Bool :=
      decide (¬(1970 ≤ Y ∧ Y ≤ 2069 ∧ 1 ≤ d ∧ d ≤ 31 ∧ h ≤ 23 ∧ mi ≤ 59 ∧ sec ≤ 59))
    let yo : Int := (Y : Int) - 1970
    let off : Int := [-1, 30, 58 + L, 89 + L, 119 + L, 150 + L, 180 + L, 211 + L, 242 + L, 272 + L,
      303 + L, 333 + L].getD (mo - 1) 0
    let dd := yo * 365 + (yo + 1) / 4 + off + d
    let e := ((((dd * 24 + h) * 60 + mi) * 60 + sec) % 2 ^ 32).toNat
    let bcd (n : Nat) : Byte := BitVec.ofNat 8 (n / 10 * 16 + n % 10)
    (mo < 1 ∨ 12 < mo → exec .packclk s = .next { s with status := { s.status with range := true } }) ∧
    (1 ≤ mo → mo ≤ 12 → ∃ t, exec .packclk s = .next t ∧
      t.tuple = s.tuple ∧ t.acc = s.acc ∧ t.host = s.host ∧ t.answer = s.answer ∧
      t.status = { s.status with range := s.status.range || outside } ∧
      ∀ a, t.img.read a =
        if a = 0 then 0x00#8 else if a = 1 then bcd sec else if a = 2 then bcd mi
        else if a = 3 then bcd h else if a = 4 then BitVec.ofNat 8 (2 ^ ((e / 86400 + 4) % 7))
        else if a = 5 then bcd d else if a = 6 then bcd mo else if a = 7 then bcd (y % 100)
        else s.img.read a)

/-- PACKALM: the four bytes of the alarm image from ACC[15:8] and ACC[7:0], the same for every index; no
other byte, register or flag (43_register_image.md R122). -/
def Obligations.PackalmStoresTheAlarmImage : Prop :=
  (∀ idx < 16, decode (BitVec.ofNat 8 (0x70 + idx)) = .ok (.packalm idx)) ∧ ∀ s : State,
    let h := s.acc.toNat / 256 % 256
    let m := s.acc.toNat % 256
    let bcd (n : Nat) : Byte := BitVec.ofNat 8 (n / 10 * 16 + n % 10)
    ∃ t, (∀ idx, exec (.packalm idx) s = .next t) ∧
      t.tuple = s.tuple ∧ t.acc = s.acc ∧ t.host = s.host ∧ t.answer = s.answer ∧
      t.status = { s.status with range := s.status.range || decide (99 < h ∨ 99 < m) } ∧
      ∀ a, t.img.read a =
        if a = 8 then 0x08#8 else if a = 9 then bcd m else if a = 10 then bcd h
        else if a = 11 then 0x80#8 else s.img.read a

/-- CLRALM: the cleared alarm image, whatever the state, and nothing else (43_register_image.md R123). -/
def Obligations.ClralmStoresTheClearedImage : Prop :=
  decode 0x62#8 = .ok .clralm ∧ ∀ s : State, ∃ t,
    exec .clralm s = .next t ∧ t.tuple = s.tuple ∧ t.acc = s.acc ∧ t.status = s.status ∧
      t.host = s.host ∧ t.answer = s.answer ∧
      ∀ a, t.img.read a =
        if a = 8 then 0x08#8 else if a = 9 ∨ a = 10 ∨ a = 11 then 0x80#8 else s.img.read a

/-- Image round trip: for a tuple in contract with a four-digit year, UNPACKCLK after PACKCLK gives the six
fields back, sets T[WDAY] to the weekday of the epoch value TOEPOCH gives, and sets no flag
(43_register_image.md R125). -/
def Obligations.ClockImageRoundTrips : Prop :=
  ∀ s : State, 1970 ≤ s.tuple.year.toNat → s.tuple.year.toNat ≤ 2069 → 1 ≤ s.tuple.month.toNat →
    s.tuple.month.toNat ≤ 12 → 1 ≤ s.tuple.day.toNat → s.tuple.day.toNat ≤ 31 →
    s.tuple.hour.toNat ≤ 23 → s.tuple.min.toNat ≤ 59 → s.tuple.sec.toNat ≤ 59 →
      ∃ t u v, exec .packclk s = .next t ∧ exec .unpackclk t = .next u ∧ exec .toepoch s = .next v ∧
        u.tuple = { s.tuple with wday := BitVec.ofNat 8 ((v.acc.toNat / 86400 + 4) % 7) } ∧
        u.status = s.status ∧ u.acc = s.acc

/-- Years alias in the clock image: with any legal month, the year that UNPACKCLK reads back after PACKCLK
is the two low decimal digits of T[YEAR] with pivot 70 (70_reset_and_hazards.md R168). -/
def Obligations.YearsAliasInTheClockImage : Prop :=
  ∀ s : State, 1 ≤ s.tuple.month.toNat → s.tuple.month.toNat ≤ 12 →
    let yy := s.tuple.year.toNat % 100
    ∃ t u, exec .packclk s = .next t ∧ exec .unpackclk t = .next u ∧
      u.tuple.year.toNat = if yy < 70 then 2000 + yy else 1900 + yy

/-- Latency cannot be observed: leaving out the cycles in which nothing is answered changes no bit of the
architectural state that a sequence of host signals ends in (70_reset_and_hazards.md R172; 20_memory.md
R44). The model's choices it rests on: LATENCY is a bit of each cycle (log entry 3); the sequence may drop
or change a request before its `ack`, where the signals of the answered cycle count (log entry 5; those
that satisfy holdsRequests do not); answered cycles in a row are transactions in a row (log entry 15); a request
still high after a reset is performed (log entry 16). -/
def Obligations.LatencyCannotBeObserved : Prop :=
  ∀ (s : State) (cs : List BusCycle),
    let busy := cs.filter (fun c => !c.passes)
    ∃ t u, Host.Core.run core cs.length ({ s with host := cs } : State) = .next t ∧
      Host.Core.run core busy.length ({ s with host := busy } : State) = .next u ∧
      State.architectural t = State.architectural u
end

