-- ==== Sys2Proof/Laws/Calendar.lean ====
section
/-! SUPPORT. The small facts of the calendar functions. -/

namespace Sys2Proof.Machine

/-- The second form of `ceil(a/4)` (00_scope.md R5). -/
theorem ceilDiv_four (a : Int) : ceilDiv a 4 = (a + 3) / 4 := by unfold ceilDiv; omega

/-- `ystart` with its leap days counted as (yo + 1) div 4 (41_calendar_engine.md R83). -/
theorem ystart_eq (yo : Int) : ystart yo = yo * 365 + (yo + 1) / 4 := by
  unfold ystart; rw [ceilDiv_four]; omega

theorem leap_eq_one_or_zero (y : Int) : leap y = 0 ∨ leap y = 1 := by unfold leap; split <;> simp

/-- The month offsets as R89 tabulates them, and none elsewhere. -/
theorem moff_eq (m : Nat) (L : Int) :
    moff m L = match m with
      | 1 => some (-1) | 2 => some 30 | 3 => some (58 + L) | 4 => some (89 + L)
      | 5 => some (119 + L) | 6 => some (150 + L) | 7 => some (180 + L) | 8 => some (211 + L)
      | 9 => some (242 + L) | 10 => some (272 + L) | 11 => some (303 + L) | 12 => some (333 + L)
      | _ => none := by
  match m with
  | 0 => rfl
  | 1 => rfl
  | 2 => rfl
  | 3 | 4 | 5 | 6 | 7 | 8 | 9 | 10 | 11 | 12 =>
    simp [moff, threshold, monthTable, List.lookup]; omega
  | n + 13 => simp [moff, threshold, monthTable, List.lookup]

/-- `toepoch_z` has a value exactly for a month in 1..12 (R90). -/
theorem toepochZ_eq_none (y mo d h mi s : Nat) :
    toepochZ y mo d h mi s = none ↔ mo < 1 ∨ 12 < mo := by
  unfold toepochZ
  rw [Option.map_eq_none_iff, moff_eq]
  match mo with
  | 0 => simp
  | 1 | 2 | 3 | 4 | 5 | 6 | 7 | 8 | 9 | 10 | 11 | 12 => simp
  | n + 13 => simp

end Sys2Proof.Machine
end

