-- ==== Sys2Proof/Laws/Codec.lean ====
section
/-! SUPPORT. The small facts of the codec functions. -/

namespace Sys2Proof.Machine

/-- `wdpack` is the low byte of 2^w for every w (40_register_codec.md R63). -/
theorem wdpack_eq (w : Nat) : wdpack w = BitVec.ofNat 8 (2 ^ w) := by
  unfold wdpack
  split
  · rfl
  · rename_i h
    obtain ⟨k, rfl⟩ : ∃ k, w = 8 + k := ⟨w - 8, by omega⟩
    apply BitVec.eq_of_toNat_eq
    simp [pow_add]

/-- `dec2bcd` as a number. -/
theorem dec2bcd_toNat (n : Nat) : (dec2bcd n).toNat = (n / 10 * 16 + n % 10) % 256 := by
  simp [dec2bcd]

/-- The range of `bcd2dec` (40_register_codec.md R60). -/
theorem bcd2dec_le (b : Byte) : bcd2dec b ≤ 165 := by
  have := b.isLt
  unfold bcd2dec nibHi nibLo
  omega

end Sys2Proof.Machine
end

