-- ==== Sys2Proof/Laws/Memory.lean ====
section
/-! SUPPORT. The image memory: a read after a write, and that every memory operation keeps the canonical
form. The read laws hold of every list of cells, canonical or not. -/

namespace Sys2Proof.Machine

@[simp] theorem memory_read_nil (a : Nat) : Memory.read [] a = Config.unlistedByte := rfl

theorem memory_read_erase (m : Memory) (a b : Nat) :
    (m.erase a).read b = if b = a then Config.unlistedByte else m.read b := by
  induction m with
  | nil => simp [Memory.erase]
  | cons c rest ih =>
    obtain ⟨k, v⟩ := c
    simp only [Memory.erase]
    split
    · rename_i h
      rw [ih]
      simp only [Memory.read]
      split <;> rename_i h2
      · rfl
      · rw [if_neg (by omega)]
    · simp only [Memory.read, ih]
      split <;> split <;> first | rfl | omega

theorem memory_read_insert (m : Memory) (a b : Nat) (v : Byte) (hm : ∀ c ∈ m, c.1 ≠ a) :
    (m.insert a v).read b = if b = a then v else m.read b := by
  induction m with
  | nil => simp [Memory.insert, Memory.read]
  | cons c rest ih =>
    obtain ⟨k, w⟩ := c
    have hk : k ≠ a := hm (k, w) (by simp)
    have hrest : ∀ c ∈ rest, c.1 ≠ a := fun c hc => hm c (by simp [hc])
    simp only [Memory.insert]
    split
    · simp [Memory.read]
    · simp only [Memory.read, ih hrest]
      by_cases hb : b = k
      · rw [if_pos hb, if_neg (by omega), if_pos hb]
      · rw [if_neg hb, if_neg hb]

theorem memory_erase_not_mem (m : Memory) (a : Nat) : ∀ c ∈ m.erase a, c.1 ≠ a := by
  induction m with
  | nil => simp [Memory.erase]
  | cons c rest ih =>
    obtain ⟨k, v⟩ := c
    simp only [Memory.erase]
    split
    · exact ih
    · intro d hd
      rcases List.mem_cons.mp hd with rfl | hd
      · simp only; omega
      · exact ih d hd

/-- What a read gives after a write: the byte written at its address, the old byte elsewhere. -/
theorem memory_read_write (m : Memory) (a b : Nat) (v : Byte) :
    (m.write a v).read b = if b = a then v else m.read b := by
  unfold Memory.write
  split
  · rename_i h
    rw [memory_read_erase, h]
  · rw [memory_read_insert _ _ _ _ (memory_erase_not_mem m a), memory_read_erase]
    split <;> rfl

@[simp] theorem memory_read_write_same (m : Memory) (a : Nat) (v : Byte) :
    (m.write a v).read a = v := by simp [memory_read_write]

theorem memory_read_write_other (m : Memory) (a b : Nat) (v : Byte) (h : b ≠ a) :
    (m.write a v).read b = m.read b := by simp [memory_read_write, h]

theorem wfFrom_mono (m : Memory) (lo hi : Nat) (h : lo ≤ hi) (hm : Memory.wfFrom hi m = true) :
    Memory.wfFrom lo m = true := by
  cases m with
  | nil => rfl
  | cons c rest =>
    simp only [Memory.wfFrom, Bool.and_eq_true, decide_eq_true_eq] at hm ⊢
    exact ⟨⟨⟨by omega, hm.1.1.2⟩, hm.1.2⟩, hm.2⟩

theorem wfFrom_erase (m : Memory) (lo a : Nat) (hm : Memory.wfFrom lo m = true) :
    Memory.wfFrom lo (m.erase a) = true := by
  induction m generalizing lo with
  | nil => rfl
  | cons c rest ih =>
    obtain ⟨k, v⟩ := c
    have hm' := hm
    simp only [Memory.wfFrom, Bool.and_eq_true, decide_eq_true_eq] at hm'
    simp only [Memory.erase]
    split
    · exact wfFrom_mono _ _ _ (by omega) (ih (k + 1) hm'.2)
    · simp only [Memory.wfFrom, Bool.and_eq_true, decide_eq_true_eq]
      exact ⟨hm'.1, ih (k + 1) hm'.2⟩

theorem wfFrom_insert (m : Memory) (lo a : Nat) (v : Byte) (hlo : lo ≤ a) (ha : a < Config.imgSize)
    (hv : v ≠ Config.unlistedByte) (hm : Memory.wfFrom lo m = true) (hn : ∀ c ∈ m, c.1 ≠ a) :
    Memory.wfFrom lo (m.insert a v) = true := by
  induction m generalizing lo with
  | nil => simp [Memory.insert, Memory.wfFrom, hlo, ha, hv]
  | cons c rest ih =>
    obtain ⟨k, w⟩ := c
    have hk : k ≠ a := hn (k, w) (by simp)
    have hrest : ∀ c ∈ rest, c.1 ≠ a := fun c hc => hn c (by simp [hc])
    simp only [Memory.wfFrom, Bool.and_eq_true, decide_eq_true_eq] at hm
    simp only [Memory.insert]
    split
    · simp only [Memory.wfFrom, Bool.and_eq_true, decide_eq_true_eq]
      exact ⟨⟨⟨hlo, ha⟩, hv⟩, ⟨⟨by omega, hm.1.1.2⟩, hm.1.2⟩, hm.2⟩
    · simp only [Memory.wfFrom, Bool.and_eq_true, decide_eq_true_eq]
      exact ⟨hm.1, ih (k + 1) (by omega) hm.2 hrest⟩

/-- A write to an address of IMG keeps the canonical form. -/
theorem memory_wf_write (m : Memory) (a : Nat) (v : Byte) (ha : a < Config.imgSize)
    (hm : m.wf = true) : (m.write a v).wf = true := by
  unfold Memory.wf at *
  unfold Memory.write
  split
  · exact wfFrom_erase m 0 a hm
  · rename_i hv
    exact wfFrom_insert _ 0 a v (Nat.zero_le a) ha hv (wfFrom_erase m 0 a hm)
      (memory_erase_not_mem m a)

/-- The empty memory, the reset memory's form, is canonical. -/
theorem memory_wf_nil : Memory.wf [] = true := rfl

end Sys2Proof.Machine
end

