-- ==== Sys2Proof/Laws/State.lean ====
section
/-! SUPPORT. One lemma per field per update of State, for the named updates of Machine/Ops.lean and
Machine/Transaction.lean, so that no later proof unfolds a record update. -/

namespace Sys2Proof.Machine

section
variable (s : State) (v : Word) (c : Cause) (f : Field) (b : Bool)

@[simp] theorem setAcc_tuple : (s.setAcc v).tuple = s.tuple := rfl
@[simp] theorem setAcc_acc : (s.setAcc v).acc = v := rfl
@[simp] theorem setAcc_status : (s.setAcc v).status = s.status := rfl
@[simp] theorem setAcc_img : (s.setAcc v).img = s.img := rfl
@[simp] theorem setAcc_host : (s.setAcc v).host = s.host := rfl
@[simp] theorem setAcc_answer : (s.setAcc v).answer = s.answer := rfl

@[simp] theorem setFlag_tuple : (s.setFlag c).tuple = s.tuple := rfl
@[simp] theorem setFlag_acc : (s.setFlag c).acc = s.acc := rfl
@[simp] theorem setFlag_status : (s.setFlag c).status = s.status.set c := rfl
@[simp] theorem setFlag_img : (s.setFlag c).img = s.img := rfl
@[simp] theorem setFlag_host : (s.setFlag c).host = s.host := rfl
@[simp] theorem setFlag_answer : (s.setFlag c).answer = s.answer := rfl

@[simp] theorem flagIf_tuple : (s.flagIf c b).tuple = s.tuple := by cases b <;> rfl
@[simp] theorem flagIf_acc : (s.flagIf c b).acc = s.acc := by cases b <;> rfl
@[simp] theorem flagIf_status :
    (s.flagIf c b).status = if b then s.status.set c else s.status := by cases b <;> rfl
@[simp] theorem flagIf_img : (s.flagIf c b).img = s.img := by cases b <;> rfl
@[simp] theorem flagIf_host : (s.flagIf c b).host = s.host := by cases b <;> rfl
@[simp] theorem flagIf_answer : (s.flagIf c b).answer = s.answer := by cases b <;> rfl

@[simp] theorem writeField_acc : (s.writeField f v).acc = s.acc := by cases f <;> rfl
@[simp] theorem writeField_status : (s.writeField f v).status = s.status := by cases f <;> rfl
@[simp] theorem writeField_img : (s.writeField f v).img = s.img := by cases f <;> rfl
@[simp] theorem writeField_host : (s.writeField f v).host = s.host := by cases f <;> rfl
@[simp] theorem writeField_answer : (s.writeField f v).answer = s.answer := by cases f <;> rfl

@[simp] theorem writeField_year_tuple :
    (s.writeField .year v).tuple = { s.tuple with year := v.setWidth 16 } := rfl
@[simp] theorem writeField_month_tuple :
    (s.writeField .month v).tuple = { s.tuple with month := v.setWidth 8 } := rfl
@[simp] theorem writeField_day_tuple :
    (s.writeField .day v).tuple = { s.tuple with day := v.setWidth 8 } := rfl
@[simp] theorem writeField_wday_tuple :
    (s.writeField .wday v).tuple = { s.tuple with wday := v.setWidth 8 } := rfl
@[simp] theorem writeField_hour_tuple :
    (s.writeField .hour v).tuple = { s.tuple with hour := v.setWidth 8 } := rfl
@[simp] theorem writeField_min_tuple :
    (s.writeField .min v).tuple = { s.tuple with min := v.setWidth 8 } := rfl
@[simp] theorem writeField_sec_tuple :
    (s.writeField .sec v).tuple = { s.tuple with sec := v.setWidth 8 } := rfl

@[simp] theorem readField_year : s.readField .year = s.tuple.year.setWidth 32 := rfl
@[simp] theorem readField_month : s.readField .month = s.tuple.month.setWidth 32 := rfl
@[simp] theorem readField_day : s.readField .day = s.tuple.day.setWidth 32 := rfl
@[simp] theorem readField_wday : s.readField .wday = s.tuple.wday.setWidth 32 := rfl
@[simp] theorem readField_hour : s.readField .hour = s.tuple.hour.setWidth 32 := rfl
@[simp] theorem readField_min : s.readField .min = s.tuple.min.setWidth 32 := rfl
@[simp] theorem readField_sec : s.readField .sec = s.tuple.sec.setWidth 32 := rfl

@[simp] theorem resetBlock_tuple : s.resetBlock.tuple = State.reset.tuple := rfl
@[simp] theorem resetBlock_acc : s.resetBlock.acc = State.reset.acc := rfl
@[simp] theorem resetBlock_status : s.resetBlock.status = State.reset.status := rfl
@[simp] theorem resetBlock_img : s.resetBlock.img = State.reset.img := rfl
@[simp] theorem resetBlock_host : s.resetBlock.host = s.host := rfl
@[simp] theorem resetBlock_answer : s.resetBlock.answer = State.reset.answer := rfl

end

section
variable (st : Status)

@[simp] theorem status_set_illcmd : st.set .illcmd = { st with illcmd := true } := rfl
@[simp] theorem status_get_illcmd : st.get .illcmd = st.illcmd := rfl
@[simp] theorem status_set_badbcd : st.set .badbcd = { st with badbcd := true } := rfl
@[simp] theorem status_get_badbcd : st.get .badbcd = st.badbcd := rfl
@[simp] theorem status_set_range : st.set .range = { st with range := true } := rfl
@[simp] theorem status_get_range : st.get .range = st.range := rfl
@[simp] theorem status_set_wdbad : st.set .wdbad = { st with wdbad := true } := rfl
@[simp] theorem status_get_wdbad : st.get .wdbad = st.wdbad := rfl

/-- Setting a flag leaves every other flag as it was and never clears one (10_state.md R15). -/
theorem status_get_set (c d : Cause) : (st.set c).get d = (st.get d || decide (c = d)) := by
  cases c <;> cases d <;> simp

end

/-- `if cond then flag X` as one equation on the state. -/
theorem flagIf_eq (s : State) (c : Cause) (b : Bool) :
    s.flagIf c b = if b then { s with status := s.status.set c } else s := rfl

/-- A flag reads after `if cond then flag X` as before, or set if it is X and the condition held. -/
theorem flagIf_get (s : State) (c d : Cause) (b : Bool) :
    (s.flagIf c b).status.get d = (s.status.get d || (b && decide (c = d))) := by
  cases b <;> simp [status_get_set]

/-- The flag RANGE, set under a condition, as a record update. -/
theorem flagIf_range (s : State) (b : Bool) :
    s.flagIf .range b = { s with status := { s.status with range := s.status.range || b } } := by
  cases b <;> simp [flagIf_eq]

/-- The flag BADBCD, set under a condition, as a record update. -/
theorem flagIf_badbcd (s : State) (b : Bool) :
    s.flagIf .badbcd b = { s with status := { s.status with badbcd := s.status.badbcd || b } } := by
  cases b <;> simp [flagIf_eq]

/-- The flag WDBAD, set under a condition, as a record update. -/
theorem flagIf_wdbad (s : State) (b : Bool) :
    s.flagIf .wdbad b = { s with status := { s.status with wdbad := s.status.wdbad || b } } := by
  cases b <;> simp [flagIf_eq]

end Sys2Proof.Machine
end

