-- ==== Sys2Proof/Laws/Ops.lean ====
section
/-! SUPPORT. What each shared operation of Machine/Ops.lean and Machine/Ports.lean can do, said once. -/

namespace Sys2Proof.Machine

/-- MemRead at an address of IMG. -/
theorem readImg_ok (a : Nat) (s : State) (h : a < Config.imgSize) :
    readImg a s = .ok (s.img.read a) := by simp [readImg, h]

/-- MemRead answers only at an address of IMG, with the byte there. -/
theorem readImg_inv {a : Nat} {s : State} {b : Byte} (h : readImg a s = .ok b) :
    a < Config.imgSize ∧ b = s.img.read a := by
  unfold readImg at h
  split at h
  · exact ⟨‹_›, by simpa using h.symm⟩
  · cases h

/-- MemWrite at an address of IMG. -/
theorem writeImg_ok (a : Nat) (v : Byte) (s : State) (h : a < Config.imgSize) :
    writeImg a v s = .ok { s with img := s.img.write a v } := by simp [writeImg, h]

/-- MemWrite answers only at an address of IMG, and changes IMG alone. -/
theorem writeImg_inv {a : Nat} {v : Byte} {s t : State} (h : writeImg a v s = .ok t) :
    a < Config.imgSize ∧ t = { s with img := s.img.write a v } := by
  unfold writeImg at h
  split at h
  · exact ⟨‹_›, by simpa using h.symm⟩
  · cases h

/-- The memory after writing consecutive bytes from address a on. -/
def writtenFrom (m : Memory) (a : Nat) : List Byte → Memory
  | [] => m
  | v :: rest => writtenFrom (m.write a v) (a + 1) rest

/-- Consecutive bytes inside IMG are all written, and IMG alone changes. -/
theorem writeImgBytes_ok (vs : List Byte) (a : Nat) (s : State)
    (h : a + vs.length ≤ Config.imgSize) :
    writeImgBytes a vs s = .ok { s with img := writtenFrom s.img a vs } := by
  induction vs generalizing a s with
  | nil => rfl
  | cons v rest ih =>
    simp only [List.length_cons] at h
    simp only [writeImgBytes, writeImg_ok a v s (by omega)]
    rw [ih (a + 1) _ (by omega)]
    rfl

/-- What a read gives after consecutive writes: the byte written at its place, the old byte elsewhere. -/
theorem read_writtenFrom (vs : List Byte) (m : Memory) (a b : Nat) :
    (writtenFrom m a vs).read b =
      if a ≤ b ∧ b < a + vs.length then vs.getD (b - a) 0#8 else m.read b := by
  induction vs generalizing m a with
  | nil => simp only [writtenFrom, List.length_nil]; rw [if_neg (by omega)]
  | cons v rest ih =>
    simp only [writtenFrom, ih, List.length_cons]
    by_cases hb : b = a
    · subst hb
      rw [if_neg (by omega), if_pos (by omega)]
      simp
    · by_cases hin : a + 1 ≤ b ∧ b < a + 1 + rest.length
      · rw [if_pos hin, if_pos (by omega), show b - a = b - (a + 1) + 1 by omega, List.getD_cons_succ]
      · rw [if_neg hin, if_neg (by omega), memory_read_write_other _ _ _ _ hb]

/-- Consecutive writes inside IMG keep the canonical form. -/
theorem wf_writtenFrom (vs : List Byte) (m : Memory) (a : Nat)
    (h : a + vs.length ≤ Config.imgSize) (hm : m.wf = true) : (writtenFrom m a vs).wf = true := by
  induction vs generalizing m a with
  | nil => exact hm
  | cons v rest ih =>
    simp only [List.length_cons] at h
    exact ih _ _ (by omega) (memory_wf_write m a v (by omega) hm)

@[simp] theorem finish_ok (s : State) : finish (.ok s) = .next s := rfl

@[simp] theorem finish_error (f : Fault) : finish (.error f) = .fault f := rfl

/-- `raise X` answers the state with the flag set and nothing else changed. -/
theorem raise_eq (c : Cause) (s : State) :
    raise c s = .next { s with status := s.status.set c } := rfl

/-- The port of every port address. -/
theorem portOf_cases (pa : PortAddr) :
    (pa = 0#4 ∧ portOf pa = .acc) ∨ (pa = 1#4 ∧ portOf pa = .cmd) ∨ (pa = 2#4 ∧ portOf pa = .status) ∨
      (pa = 3#4 ∧ portOf pa = .reserved) ∨ (4 ≤ pa.toNat ∧ portOf pa = .img (pa.toNat - 4)) := by
  have h : ∀ k : Fin 16, (BitVec.ofFin k = 0#4 ∧ portOf (BitVec.ofFin k) = .acc) ∨
      (BitVec.ofFin k = 1#4 ∧ portOf (BitVec.ofFin k) = .cmd) ∨
      (BitVec.ofFin k = 2#4 ∧ portOf (BitVec.ofFin k) = .status) ∨
      (BitVec.ofFin k = 3#4 ∧ portOf (BitVec.ofFin k) = .reserved) ∨
      (4 ≤ k.val ∧ portOf (BitVec.ofFin k) = .img (k.val - 4)) := by decide
  exact h pa.toFin

/-- A host read always answers. -/
theorem readPort_ok (pa : PortAddr) (s : State) : ∃ v, readPort (portOf pa) s = .ok v := by
  have := pa.isLt
  rcases portOf_cases pa with ⟨_, h⟩ | ⟨_, h⟩ | ⟨_, h⟩ | ⟨_, h⟩ | ⟨h4, h⟩
  · exact ⟨_, by rw [h]; rfl⟩
  · exact ⟨_, by rw [h]; rfl⟩
  · exact ⟨_, by rw [h]; rfl⟩
  · exact ⟨_, by rw [h]; rfl⟩
  · rw [h, readPort, readImg_ok _ _ (show _ < 12 by omega)]
    exact ⟨_, rfl⟩

end Sys2Proof.Machine
end

