-- ==== Sys2Proof/Laws/Exec.lean ====
section
/-! SUPPORT. What each shared command shape and each bus operation can do, said once. -/

namespace Sys2Proof.Machine

/-- BCD2DEC of any field changes ACC and BADBCD alone. -/
theorem bcd2decField_eq (f : BcdField) (s : State) :
    bcd2decField f s = .next { s with
      acc := BitVec.ofNat 32 (bcd2dec (s.accByte &&& decodeMask f))
      status := { s.status with
        badbcd := s.status.badbcd || malformedBcd (s.accByte &&& decodeMask f) } } := by
  simp [bcd2decField, flagIf_badbcd, State.setAcc, accResult]

/-- A scalar command on an epoch value changes ACC and RANGE alone. -/
theorem epochScalar_eq (f : Nat → Word) (s : State) :
    epochScalar f s = .next { s with
      acc := f s.acc.toNat
      status := { s.status with range := s.status.range || !inWindow s.acc.toNat } } := by
  simp [epochScalar, flagIf_range, State.setAcc, outOfWindow, State.accNat]

/-- GETF of any field changes ACC alone. -/
theorem getField_eq (f : Field) (s : State) :
    getField f s = .next { s with acc := s.readField f } := rfl

/-- The reads of UNPACKCLK never fault. -/
theorem readClockBytes_ok (s : State) :
    readClockBytes s = .ok {
      sec := s.img.read 1 &&& 0x7F#8
      min := s.img.read 2 &&& 0x7F#8
      hour := s.img.read 3 &&& 0x3F#8
      wday := s.img.read 4
      day := s.img.read 5 &&& 0x3F#8
      month := s.img.read 6 &&& 0x1F#8
      year := s.img.read 7 &&& 0xFF#8 } := by
  unfold readClockBytes
  simp only [readImg_ok _ _ (show 1 < Config.imgSize by decide),
    readImg_ok _ _ (show 2 < Config.imgSize by decide), readImg_ok _ _ (show 3 < Config.imgSize by decide),
    readImg_ok _ _ (show 4 < Config.imgSize by decide), readImg_ok _ _ (show 5 < Config.imgSize by decide),
    readImg_ok _ _ (show 6 < Config.imgSize by decide), readImg_ok _ _ (show 7 < Config.imgSize by decide)]
  rfl

/-- PACKCLK with a legal month stores its eight bytes and sets RANGE out of contract. -/
theorem execPackclk_some (s : State) (z : Int) (h : s.tuple.epochZ = some z) :
    execPackclk s = .next { s.flagIf .range s.tuple.outOfContract with
      img := writtenFrom s.img 0 (clockImage s.tuple (wdof (BitVec.ofInt 32 z).toNat)) } := by
  unfold execPackclk
  rw [h]
  simp only
  rw [writeImgBytes_ok _ _ _ (by simp [clockImage, Config.imgSize])]
  simp [accResultInt]

/-- The step in its three cases: no signal placed, and then reset, a request answered, or neither. -/
theorem step_eq (s : State) :
    step s = match s.host with
      | [] => .next { s with answer := .noAck }
      | c :: rest =>
        if c.rst then .next { State.reset with host := rest }
        else if c.req && c.ready then perform c.request { s with host := rest }
        else .next { s with host := rest, answer := .noAck } := by
  unfold step clkEdge
  cases s.host <;> rfl

/-- A transaction in its three cases: a read, a command, a store at another port. -/
theorem perform_eq (r : Request) (s : State) :
    perform r s =
      if r.we then
        if r.pa = 1#4 then runCommand (r.wdata.setWidth 8) { s with answer := .written }
        else finish (storePort (portOf r.pa) r.wdata { s with answer := .written })
      else hostRead r.pa s := by
  unfold perform
  split
  · rcases portOf_cases r.pa with ⟨h, hp⟩ | ⟨h, hp⟩ | ⟨h, hp⟩ | ⟨h, hp⟩ | ⟨h, hp⟩
    · rw [if_neg (by rw [h]; decide)]; simp [hostWrite, hp]
    · rw [if_pos h]; simp [hostWrite, hp]
    · rw [if_neg (by rw [h]; decide)]; simp [hostWrite, hp]
    · rw [if_neg (by rw [h]; decide)]; simp [hostWrite, hp]
    · rw [if_neg (by rintro h1; rw [h1] at h; exact absurd h (by decide))]; simp [hostWrite, hp]
  · rfl

end Sys2Proof.Machine
end

