-- ==== Sys2Proof/Laws/PerInstr.lean ====
section
/-! SUPPORT. Facts proved constructor by constructor. TableRow: the word of a command lies in its row of
spec/opcode_table.json, whose match and mask are copied here. -/

namespace Sys2Proof.Laws

/-- The match and mask of the command's row in spec/opcode_table.json. -/
def tableRow (i : Instr) : Byte × Byte :=
  match i with
  | .nop => (0x00#8, 0xFF#8)
  | .bcd2decYear => (0x10#8, 0xFF#8)
  | .bcd2decMonth => (0x11#8, 0xFF#8)
  | .bcd2decDay => (0x12#8, 0xFF#8)
  | .bcd2decHour => (0x14#8, 0xFF#8)
  | .bcd2decMin => (0x15#8, 0xFF#8)
  | .bcd2decSec => (0x16#8, 0xFF#8)
  | .dec2bcd => (0x20#8, 0xFF#8)
  | .wdpack => (0x21#8, 0xFF#8)
  | .wdunpack => (0x22#8, 0xFF#8)
  | .yeardec => (0x23#8, 0xFF#8)
  | .days => (0x30#8, 0xFF#8)
  | .yearof => (0x31#8, 0xFF#8)
  | .doy => (0x32#8, 0xFF#8)
  | .monthof => (0x33#8, 0xFF#8)
  | .dayof => (0x34#8, 0xFF#8)
  | .wdof => (0x35#8, 0xFF#8)
  | .getfYear => (0x40#8, 0xFF#8)
  | .getfMonth => (0x41#8, 0xFF#8)
  | .getfDay => (0x42#8, 0xFF#8)
  | .getfWday => (0x43#8, 0xFF#8)
  | .getfHour => (0x44#8, 0xFF#8)
  | .getfMin => (0x45#8, 0xFF#8)
  | .getfSec => (0x46#8, 0xFF#8)
  | .toepoch => (0x47#8, 0xFF#8)
  | .setfYear => (0x50#8, 0xFF#8)
  | .setfMonth => (0x51#8, 0xFF#8)
  | .setfDay => (0x52#8, 0xFF#8)
  | .setfWday => (0x53#8, 0xFF#8)
  | .setfHour => (0x54#8, 0xFF#8)
  | .setfMin => (0x55#8, 0xFF#8)
  | .setfSec => (0x56#8, 0xFF#8)
  | .fromepoch => (0x57#8, 0xFF#8)
  | .unpackclk => (0x60#8, 0xFF#8)
  | .packclk => (0x61#8, 0xFF#8)
  | .clralm => (0x62#8, 0xFF#8)
  | .packalm _ => (0x70#8, 0xF0#8)

/-- The command's word, under its row's mask, is its row's match. -/
def TableRow.Statement (i : Instr) : Prop :=
  i.wellFormed = true → encode i &&& (tableRow i).2 = (tableRow i).1

theorem TableRow.nop : TableRow.Statement .nop := fun _ => by decide
theorem TableRow.bcd2decYear : TableRow.Statement .bcd2decYear := fun _ => by decide
theorem TableRow.bcd2decMonth : TableRow.Statement .bcd2decMonth := fun _ => by decide
theorem TableRow.bcd2decDay : TableRow.Statement .bcd2decDay := fun _ => by decide
theorem TableRow.bcd2decHour : TableRow.Statement .bcd2decHour := fun _ => by decide
theorem TableRow.bcd2decMin : TableRow.Statement .bcd2decMin := fun _ => by decide
theorem TableRow.bcd2decSec : TableRow.Statement .bcd2decSec := fun _ => by decide
theorem TableRow.dec2bcd : TableRow.Statement .dec2bcd := fun _ => by decide
theorem TableRow.wdpack : TableRow.Statement .wdpack := fun _ => by decide
theorem TableRow.wdunpack : TableRow.Statement .wdunpack := fun _ => by decide
theorem TableRow.yeardec : TableRow.Statement .yeardec := fun _ => by decide
theorem TableRow.days : TableRow.Statement .days := fun _ => by decide
theorem TableRow.yearof : TableRow.Statement .yearof := fun _ => by decide
theorem TableRow.doy : TableRow.Statement .doy := fun _ => by decide
theorem TableRow.monthof : TableRow.Statement .monthof := fun _ => by decide
theorem TableRow.dayof : TableRow.Statement .dayof := fun _ => by decide
theorem TableRow.wdof : TableRow.Statement .wdof := fun _ => by decide
theorem TableRow.getfYear : TableRow.Statement .getfYear := fun _ => by decide
theorem TableRow.getfMonth : TableRow.Statement .getfMonth := fun _ => by decide
theorem TableRow.getfDay : TableRow.Statement .getfDay := fun _ => by decide
theorem TableRow.getfWday : TableRow.Statement .getfWday := fun _ => by decide
theorem TableRow.getfHour : TableRow.Statement .getfHour := fun _ => by decide
theorem TableRow.getfMin : TableRow.Statement .getfMin := fun _ => by decide
theorem TableRow.getfSec : TableRow.Statement .getfSec := fun _ => by decide
theorem TableRow.toepoch : TableRow.Statement .toepoch := fun _ => by decide
theorem TableRow.setfYear : TableRow.Statement .setfYear := fun _ => by decide
theorem TableRow.setfMonth : TableRow.Statement .setfMonth := fun _ => by decide
theorem TableRow.setfDay : TableRow.Statement .setfDay := fun _ => by decide
theorem TableRow.setfWday : TableRow.Statement .setfWday := fun _ => by decide
theorem TableRow.setfHour : TableRow.Statement .setfHour := fun _ => by decide
theorem TableRow.setfMin : TableRow.Statement .setfMin := fun _ => by decide
theorem TableRow.setfSec : TableRow.Statement .setfSec := fun _ => by decide
theorem TableRow.fromepoch : TableRow.Statement .fromepoch := fun _ => by decide
theorem TableRow.unpackclk : TableRow.Statement .unpackclk := fun _ => by decide
theorem TableRow.packclk : TableRow.Statement .packclk := fun _ => by decide
theorem TableRow.clralm : TableRow.Statement .clralm := fun _ => by decide
theorem TableRow.packalm (idx : Nat) : TableRow.Statement (.packalm idx) := by
  intro h
  have hidx : idx < 16 := by simpa [Instr.wellFormed] using h
  interval_cases idx <;> decide

end Sys2Proof.Laws
end

