-- ==== Sys2Proof/Machine/Script.lean ====
section
/-! DEFINITION. The host's side as the spec writes it: script lines (30_encoding.md R52),
pseudo-instructions (R53), the sequences of the four DeviceSession operations (43_register_image.md
R124) and the chip register of each image byte (20_memory.md R37, R43). A line's text is not parsed;
these are the lines as data and the transactions they stand for. -/

namespace Sys2Proof.Machine

/-- A script line (30_encoding.md R52). -/
inductive ScriptLine where
  | wr (pa : PortAddr) (value : Word)
  | rd (pa : PortAddr)
  | cmd (i : Instr)
  deriving DecidableEq, Repr

/-- The port address of CLK[i] (20_memory.md R31). -/
def clkPort (i : Nat) : PortAddr := BitVec.ofNat 4 (4 + i)

/-- The port address of ALM[j] (20_memory.md R31). -/
def almPort (j : Nat) : PortAddr := BitVec.ofNat 4 (12 + j)

/-- The encoding of a line: the triple (we, pa, wdata) (30_encoding.md R52). A read carries no wdata;
its pins hold 0 and the block does not look at them. -/
def ScriptLine.request (l : ScriptLine) : Request :=
  match l with
  | .wr pa v => { we := true, pa := pa, wdata := v }
  | .rd pa => { we := false, pa := pa, wdata := 0#32 }
  | .cmd i => commandRequest (encode i)

/-- GETF f as a command. -/
def getfOf (f : Field) : Instr :=
  match f with
  | .year => .getfYear
  | .month => .getfMonth
  | .day => .getfDay
  | .wday => .getfWday
  | .hour => .getfHour
  | .min => .getfMin
  | .sec => .getfSec

/-- SETF f as a command. -/
def setfOf (f : Field) : Instr :=
  match f with
  | .year => .setfYear
  | .month => .setfMonth
  | .day => .setfDay
  | .wday => .setfWday
  | .hour => .setfHour
  | .min => .setfMin
  | .sec => .setfSec

/-- The pseudo-instructions (30_encoding.md R53). -/
inductive Pseudo where
  /-- `cmd BCD2DEC` with no operand. -/
  | bcd2dec
  /-- `cmd GETF EPOCH`. -/
  | getfEpoch
  /-- `cmd SETF EPOCH`. -/
  | setfEpoch
  /-- `cmd PACKALM` with no operand. -/
  | packalm
  | setfield (f : Field) (v : Word)
  | getfield (f : Field)
  | setalarm (h m : Nat)
  deriving DecidableEq, Repr

/-- The expansion of a pseudo-instruction (30_encoding.md R53). -/
def Pseudo.expand (p : Pseudo) : List ScriptLine :=
  match p with
  | .bcd2dec => [.cmd .bcd2decYear]
  | .getfEpoch => [.cmd .toepoch]
  | .setfEpoch => [.cmd .fromepoch]
  | .packalm => [.cmd (.packalm 0)]
  | .setfield f v => [.wr 0#4 v, .cmd (setfOf f)]
  | .getfield f => [.cmd (getfOf f), .rd 0#4]
  | .setalarm h m => [.wr 0#4 (BitVec.ofNat 32 (h * 256 + m)), .cmd (.packalm 0)]

/-- BCDCAL's part of `readClock()`: the seconds..year bytes to CLK1..CLK7, then UNPACKCLK
(43_register_image.md R124). -/
def readClockScript (sec min hour wday day month year : Byte) : List ScriptLine :=
  [.wr (clkPort 1) (sec.setWidth 32), .wr (clkPort 2) (min.setWidth 32),
   .wr (clkPort 3) (hour.setWidth 32), .wr (clkPort 4) (wday.setWidth 32),
   .wr (clkPort 5) (day.setWidth 32), .wr (clkPort 6) (month.setWidth 32),
   .wr (clkPort 7) (year.setWidth 32), .cmd .unpackclk]

/-- BCDCAL's part of `writeClock()` (43_register_image.md R124). -/
def writeClockScript : List ScriptLine :=
  .cmd .packclk :: (List.range 8).map (fun i => .rd (clkPort i))

/-- BCDCAL's part of `setAlarm(h, m)` (43_register_image.md R124). -/
def setAlarmScript (h m : Nat) : List ScriptLine :=
  Pseudo.expand (.setalarm h m) ++ (List.range 4).map (fun j => .rd (almPort j))

/-- BCDCAL's part of `clearAlarm()` (43_register_image.md R124). -/
def clearAlarmScript : List ScriptLine :=
  .cmd .clralm :: (List.range 4).map (fun j => .rd (almPort j))

/-- The chip register that data byte k of an image with base address `base` belongs to: base + k - 1
for k >= 1; byte 0 is the address itself (20_memory.md R37, R43). -/
def chipRegister (base : Byte) (k : Nat) : Option Nat :=
  if k = 0 then none else some (base.toNat + k - 1)

/-- The state in which the host's next transactions are those of a script, each answered in the cycle
it is raised, with `req` not falling between them (log entries 14 and 15). -/
def State.withScript (s : State) (ls : List ScriptLine) : State :=
  { s with host := ls.map (fun l => l.request.answeredAtOnce) ++ s.host }

end Sys2Proof.Machine
end

