-- ==== Sys2Proof/Tests/Slice0.lean ====
section
/-! SUPPORT. The model's own tests. The expected values are those of spec/95_test_vectors.md (the vector
is named in each comment); words are written out from 30_encoding.md R47. After them, one theorem for
each obligation with hypotheses, showing a state and operands that meet them. -/

namespace Sys2Proof.Tests

open Sys2Proof.Machine

/-! Helpers -/

def withAcc (v : Word) : State := { State.reset with acc := v }

def tup (y mo d w h mi s : Nat) : Tuple where
  year := BitVec.ofNat 16 y
  month := BitVec.ofNat 8 mo
  day := BitVec.ofNat 8 d
  wday := BitVec.ofNat 8 w
  hour := BitVec.ofNat 8 h
  min := BitVec.ofNat 8 mi
  sec := BitVec.ofNat 8 s

def withTuple (t : Tuple) : State := { State.reset with tuple := t }

/-- The reset state with the clock image given. -/
def withClock (bs : List Byte) : State :=
  { State.reset with img := (bs.zipIdx).foldl (fun m p => m.write p.2 p.1) [] }

/-- ACC and the STATUS port after a command. -/
def accStatus (i : Instr) (s : State) : Option (Word × Word) :=
  (nextState (exec i s)).map fun t => (t.acc, t.status.toWord)

/-- T and the STATUS port after a command. -/
def tupleStatus (i : Instr) (s : State) : Option (Tuple × Word) :=
  (nextState (exec i s)).map fun t => (t.tuple, t.status.toWord)

/-- IMG[a], IMG[a+1], … and the STATUS port after a command. -/
def imgStatus (i : Instr) (s : State) (a n : Nat) : Option (List Byte × Word) :=
  (nextState (exec i s)).map fun t => ((List.range n).map (fun k => t.img.read (a + k)), t.status.toWord)

/-- A state whose next cycle answers the transaction. -/
def issuing (we : Bool) (pa : PortAddr) (v : Word) (s : State) : State :=
  { s with host := [(Request.mk we pa v).answeredAtOnce] }

/-! Well-formedness -/

theorem test_wellFormed_refuses_index_16 : (Instr.packalm 16).wellFormed = false := by decide

theorem test_wellFormed_accepts_index_15 : (Instr.packalm 15).wellFormed = true := by decide

/-! Decoding: every constructor's word, bit by bit (opc then sel) -/

theorem test_decode_nop : decode 0b00000000#8 = .ok .nop := by rfl

theorem test_decode_bcd2dec :
    decode 0b00010000#8 = .ok .bcd2decYear ∧ decode 0b00010001#8 = .ok .bcd2decMonth ∧
    decode 0b00010010#8 = .ok .bcd2decDay ∧ decode 0b00010100#8 = .ok .bcd2decHour ∧
    decode 0b00010101#8 = .ok .bcd2decMin ∧ decode 0b00010110#8 = .ok .bcd2decSec :=
  ⟨rfl, rfl, rfl, rfl, rfl, rfl⟩

theorem test_decode_codec :
    decode 0b00100000#8 = .ok .dec2bcd ∧ decode 0b00100001#8 = .ok .wdpack ∧
    decode 0b00100010#8 = .ok .wdunpack ∧ decode 0b00100011#8 = .ok .yeardec :=
  ⟨rfl, rfl, rfl, rfl⟩

theorem test_decode_calendar :
    decode 0b00110000#8 = .ok .days ∧ decode 0b00110001#8 = .ok .yearof ∧
    decode 0b00110010#8 = .ok .doy ∧ decode 0b00110011#8 = .ok .monthof ∧
    decode 0b00110100#8 = .ok .dayof ∧ decode 0b00110101#8 = .ok .wdof :=
  ⟨rfl, rfl, rfl, rfl, rfl, rfl⟩

theorem test_decode_getf :
    decode 0b01000000#8 = .ok .getfYear ∧ decode 0b01000001#8 = .ok .getfMonth ∧
    decode 0b01000010#8 = .ok .getfDay ∧ decode 0b01000011#8 = .ok .getfWday ∧
    decode 0b01000100#8 = .ok .getfHour ∧ decode 0b01000101#8 = .ok .getfMin ∧
    decode 0b01000110#8 = .ok .getfSec ∧ decode 0b01000111#8 = .ok .toepoch :=
  ⟨rfl, rfl, rfl, rfl, rfl, rfl, rfl, rfl⟩

theorem test_decode_setf :
    decode 0b01010000#8 = .ok .setfYear ∧ decode 0b01010001#8 = .ok .setfMonth ∧
    decode 0b01010010#8 = .ok .setfDay ∧ decode 0b01010011#8 = .ok .setfWday ∧
    decode 0b01010100#8 = .ok .setfHour ∧ decode 0b01010101#8 = .ok .setfMin ∧
    decode 0b01010110#8 = .ok .setfSec ∧ decode 0b01010111#8 = .ok .fromepoch :=
  ⟨rfl, rfl, rfl, rfl, rfl, rfl, rfl, rfl⟩

theorem test_decode_image :
    decode 0b01100000#8 = .ok .unpackclk ∧ decode 0b01100001#8 = .ok .packclk ∧
    decode 0b01100010#8 = .ok .clralm ∧ decode 0b01110000#8 = .ok (.packalm 0) ∧
    decode 0b01111001#8 = .ok (.packalm 9) ∧ decode 0b01111111#8 = .ok (.packalm 15) :=
  ⟨rfl, rfl, rfl, rfl, rfl, rfl⟩

/-- The rejections by name, one word for each group of 30_encoding.md R49 (V3.18). -/
theorem test_decode_rejects :
    decode 0x01#8 = .error .nopSelector ∧ decode 0x13#8 = .error .bcdOfWeekday ∧
    decode 0x17#8 = .error .bcdOfEpoch ∧ decode 0x1F#8 = .error .bcdSelector ∧
    decode 0x24#8 = .error .codecSelector ∧ decode 0x36#8 = .error .calendarSelector ∧
    decode 0x48#8 = .error .getSelector ∧ decode 0x58#8 = .error .setSelector ∧
    decode 0x63#8 = .error .imageSelector ∧ decode 0x80#8 = .error .reservedGroup ∧
    decode 0xFF#8 = .error .reservedGroup :=
  ⟨rfl, rfl, rfl, rfl, rfl, rfl, rfl, rfl, rfl, rfl, rfl⟩

theorem test_decodeTableWord : decodeTableWord 8 0x47 = some .toepoch ∧ decodeTableWord 8 0x13 = none :=
  ⟨rfl, rfl⟩

/-! RegisterCodec: V3.1 to V3.5 -/

theorem test_bcd2dec_year_malformed : accStatus .bcd2decYear (withAcc 0xFF#32) = some (165, 2) := by decide

theorem test_bcd2dec_year_ignores_high_bits :
    accStatus .bcd2decYear (withAcc 0xFFFFFF42#32) = some (42, 0) := by decide

theorem test_bcd2dec_month_masks_first : accStatus .bcd2decMonth (withAcc 0xC5#32) = some (5, 0) := by decide

theorem test_bcd2dec_month_malformed : accStatus .bcd2decMonth (withAcc 0x1F#32) = some (25, 2) := by decide

theorem test_bcd2dec_day : accStatus .bcd2decDay (withAcc 0xF1#32) = some (31, 0) := by decide

theorem test_bcd2dec_hour : accStatus .bcd2decHour (withAcc 0xD9#32) = some (19, 0) := by decide

theorem test_bcd2dec_min : accStatus .bcd2decMin (withAcc 0x7F#32) = some (85, 2) := by decide

theorem test_bcd2dec_sec : accStatus .bcd2decSec (withAcc 0x5A#32) = some (60, 2) := by decide

theorem test_dec2bcd_99 : accStatus .dec2bcd (withAcc 99#32) = some (0x99, 0) := by decide

theorem test_dec2bcd_all_ones : accStatus .dec2bcd (withAcc 0xFFFFFFFF#32) = some (0x95, 4) := by decide

theorem test_wdpack_friday : accStatus .wdpack (withAcc 5#32) = some (0x20, 0) := by decide

theorem test_wdpack_no_shift_modulo_32 : accStatus .wdpack (withAcc 32#32) = some (0, 4) := by decide

theorem test_wdunpack_highest_wins : accStatus .wdunpack (withAcc 0x0A#32) = some (3, 8) := by decide

theorem test_wdunpack_no_match_keeps :
    tupleStatus .wdunpack { withTuple (tup 0 0 0 200 0 0 0) with acc := 0x80#32 } =
      some (tup 0 0 0 200 0 0 0, 8) := by decide

theorem test_yeardec_pivot : accStatus .yeardec (withAcc 0x12345685#32) = some (1985, 0) := by decide

theorem test_yeardec_malformed : accStatus .yeardec (withAcc 0x6A#32) = some (1970, 2) := by decide

/-! CalendarEngine: V3.7 to V3.13 -/

theorem test_days_top : accStatus .days (withAcc 4294967295#32) = some (49710, 4) := by decide

theorem test_yearof_exact_quotient : accStatus .yearof (withAcc 63072000#32) = some (1972, 0) := by decide

theorem test_yearof_past_window : accStatus .yearof (withAcc 3155760000#32) = some (2070, 4) := by decide

theorem test_doy_last_of_leap_year : accStatus .doy (withAcc 94694399#32) = some (365, 0) := by decide

theorem test_doy_first_of_next_year : accStatus .doy (withAcc 94694400#32) = some (0, 0) := by decide

theorem test_monthof_leap_threshold : accStatus .monthof (withAcc 68256000#32) = some (3, 0) := by decide

theorem test_monthof_february : accStatus .monthof (withAcc 34214400#32) = some (2, 0) := by decide

theorem test_dayof_leap_day : accStatus .dayof (withAcc 68169600#32) = some (29, 0) := by decide

theorem test_dayof_2100 : accStatus .dayof (withAcc 4107542400#32) = some (29, 4) := by decide

theorem test_wdof_anchor : accStatus .wdof (withAcc 0#32) = some (4, 0) := by decide

theorem test_wdof_sunday : accStatus .wdof (withAcc 259200#32) = some (0, 0) := by decide

/-- V1.6. -/
theorem test_toepoch : accStatus .toepoch (withTuple (tup 2024 3 15 0 9 30 0)) = some (1710495000, 0) := by
  decide

/-- V3.11: -1 wraps. -/
theorem test_toepoch_negative :
    accStatus .toepoch (withTuple (tup 1969 12 31 0 23 59 59)) = some (0xFFFFFFFF, 4) := by decide

/-- V3.9. -/
theorem test_fromepoch_top :
    tupleStatus .fromepoch { withTuple (tup 0 0 0 9 0 0 0) with acc := 4294967295#32 } =
      some (tup 2106 2 6 9 6 28 15, 4) := by decide

/-- V1.4. -/
theorem test_fromepoch_leap :
    tupleStatus .fromepoch (withAcc 68256000#32) = some (tup 1972 3 1 0 0 0 0, 0) := by decide

/-! Tuple access: V3.14 -/

theorem test_nop : nextState (exec .nop (withAcc 7#32)) = some (withAcc 7#32) := by decide

theorem test_getf_each :
    accStatus .getfYear (withTuple (tup 2024 3 15 5 9 30 7)) = some (2024, 0) ∧
    accStatus .getfMonth (withTuple (tup 2024 3 15 5 9 30 7)) = some (3, 0) ∧
    accStatus .getfDay (withTuple (tup 2024 3 15 5 9 30 7)) = some (15, 0) ∧
    accStatus .getfWday (withTuple (tup 2024 3 15 5 9 30 7)) = some (5, 0) ∧
    accStatus .getfHour (withTuple (tup 2024 3 15 5 9 30 7)) = some (9, 0) ∧
    accStatus .getfMin (withTuple (tup 2024 3 15 5 9 30 7)) = some (30, 0) ∧
    accStatus .getfSec (withTuple (tup 2024 3 15 5 9 30 7)) = some (7, 0) := by decide

theorem test_setf_each :
    tupleStatus .setfYear (withAcc 0x12345#32) = some (tup 9029 0 0 0 0 0 0, 0) ∧
    tupleStatus .setfMonth (withAcc 0x100#32) = some (tup 0 0 0 0 0 0 0, 0) ∧
    tupleStatus .setfDay (withAcc 15#32) = some (tup 0 0 15 0 0 0 0, 0) ∧
    tupleStatus .setfWday (withAcc 255#32) = some (tup 0 0 0 255 0 0 0, 0) ∧
    tupleStatus .setfHour (withAcc 9#32) = some (tup 0 0 0 0 9 0 0, 0) ∧
    tupleStatus .setfMin (withAcc 30#32) = some (tup 0 0 0 0 0 30 0, 0) ∧
    tupleStatus .setfSec (withAcc 300#32) = some (tup 0 0 0 0 0 0 44, 0) := by decide

/-! Register images: V3.15 to V3.17 -/

theorem test_unpackclk :
    tupleStatus .unpackclk (withClock [0xAA, 0x59, 0x59, 0x23, 0x04, 0x31, 0x12, 0x69]) =
      some (tup 2069 12 31 2 23 59 59, 0) := by decide

theorem test_unpackclk_all_ones :
    tupleStatus .unpackclk (withClock [0x00, 0xFF, 0xFF, 0xFF, 0xFF, 0xFF, 0xFF, 0xFF]) =
      some (tup 2065 25 45 6 45 85 85, 0x0A) := by decide

theorem test_packclk :
    imgStatus .packclk (withTuple (tup 2024 3 15 2 9 30 0)) 0 8 =
      some ([0x00, 0x00, 0x30, 0x09, 0x20, 0x15, 0x03, 0x24], 0) := by decide

theorem test_packclk_wrapped_epoch :
    imgStatus .packclk (withTuple (tup 1969 12 31 0 23 59 59)) 0 8 =
      some ([0x00, 0x59, 0x59, 0x23, 0x01, 0x31, 0x12, 0x69], 4) := by decide

theorem test_packalm :
    imgStatus (.packalm 9) (withAcc 0xABCD173B#32) 8 4 = some ([0x08, 0x59, 0x23, 0x80], 0) := by decide

theorem test_packalm_range :
    imgStatus (.packalm 0) (withAcc 0x6400#32) 8 4 = some ([0x08, 0x00, 0xA0, 0x80], 4) := by decide

theorem test_clralm : imgStatus .clralm (withAcc 1#32) 8 4 = some ([0x08, 0x80, 0x80, 0x80], 0) := by decide

/-! Transactions: V3.19, and withFetchWord -/

theorem test_fetch_first_after_reset :
    (nextState (step (State.reset.withFetchWord 8 0x23))).map (fun t => (t.acc, t.answer, t.host)) =
      some (2000, .written, []) := by decide

theorem test_port_write_low_byte :
    (nextState (step (issuing true 5#4 0x130#32 State.reset))).map (fun t => t.img) =
      some [(1, 0x30#8)] := by decide

theorem test_port_read_status :
    (nextState (step (issuing false 2#4 0#32
      { State.reset with status := { illcmd := true, badbcd := true, range := false, wdbad := true } }))).map
      (fun t => t.answer) = some (.readData 0x0B#32) := by decide

/-- A write of the reset value takes the entry away, so that equal memories are equal data. -/
theorem test_memory_canonical :
    ((Memory.write [] 3 0x12#8).write 1 0x34#8).write 3 0x00#8 = [(1, 0x34#8)] := by decide

/-! The host's side: 30_encoding.md R53, 43_register_image.md R124, 20_memory.md R43, R44 -/

/-- `setfield MONTH, 3` ends with T[MONTH] = 3. -/
theorem test_setfield_script :
    (nextState (Host.Core.run core 2 (State.reset.withScript (Pseudo.expand (.setfield .month 3#32))))).map
      (fun t => t.tuple.month) = some 3#8 := by decide

theorem test_script_requests :
    (ScriptLine.cmd (.packalm 9)).request = ⟨true, 1#4, 0x79#32⟩ ∧
    (clearAlarmScript.map ScriptLine.request).map (fun r => (r.we, r.pa)) =
      [(true, 1#4), (false, 12#4), (false, 13#4), (false, 14#4), (false, 15#4)] := by decide

/-- The year byte belongs to chip register 0x06, the sentinel to 0x0A. -/
theorem test_chipRegister : chipRegister clockBase 7 = some 0x06 ∧ chipRegister alarmBase 3 = some 0x0A := by
  decide

/-- A request held until its answer keeps the handshake, one withdrawn does not. -/
theorem test_holdsRequests :
    holdsRequests [⟨false, true, true, 0#4, 5#32, false⟩, ⟨false, true, true, 0#4, 5#32, true⟩] = true ∧
    holdsRequests [⟨false, true, true, 0#4, 5#32, false⟩, ⟨false, false, true, 0#4, 5#32, true⟩] = false := by
  decide

/-! The hypotheses of the obligations can be met -/

theorem witness_DecodeOfEncodeIsTheCommand :
    (Instr.packalm 0).wellFormed = true ∧ (Instr.packalm 15).wellFormed = true ∧
      Instr.nop.wellFormed = true := by decide

theorem witness_EncodeOfDecodeIsTheWord : decode 0x7F#8 = .ok (.packalm 15) := rfl

theorem witness_IllegalWordSetsIllcmdAlone :
    (issuing true 1#4 0xFFFFFF13#32 State.reset).answersNext ⟨true, 1#4, 0xFFFFFF13#32⟩ [] ∧
      (0xFFFFFF13#32 : Word).setWidth 8 = 0x13#8 ∧ (0x13#8 : Byte).toNat / 16 = 1 ∧
      (0x13#8 : Byte).toNat % 16 = 3 :=
  ⟨⟨_, rfl, rfl, rfl, rfl, rfl⟩, by decide, by decide, by decide⟩

theorem witness_StepRunsTheDecodedCommand :
    (issuing true 1#4 0x147#32 State.reset).answersNext ⟨true, 1#4, 0x147#32⟩ [] ∧
      decode ((0x147#32 : Word).setWidth 8) = .ok .toepoch ∧ decode (BitVec.ofNat 8 0x47) = .ok .toepoch :=
  ⟨⟨_, rfl, rfl, rfl, rfl, rfl⟩, rfl, rfl⟩

theorem witness_PortReadReturnsTheMappedValue :
    (∀ k < 16, (issuing false (BitVec.ofNat 4 k) 0#32 State.reset).answersNext
      ⟨false, BitVec.ofNat 4 k, 0#32⟩ []) :=
  fun _ _ => ⟨_, rfl, rfl, rfl, rfl, rfl⟩

theorem witness_PortWriteStoresOrDoesNothing :
    ∀ k ∈ [0, 2, 3, 4, 15], (BitVec.ofNat 4 k ≠ 1#4) ∧
      (issuing true (BitVec.ofNat 4 k) 9#32 State.reset).answersNext ⟨true, BitVec.ofNat 4 k, 9#32⟩ [] := by
  intro k hk
  refine ⟨?_, ⟨_, rfl, rfl, rfl, rfl, rfl⟩⟩
  simp only [List.mem_cons, List.not_mem_nil, or_false] at hk
  rcases hk with rfl | rfl | rfl | rfl | rfl <;> decide

/-- A request held without an answer, and an idle cycle. -/
theorem witness_WaitingCycleChangesNothing :
    (BusCycle.mk false true true 1#4 0x47#32 false).passes = true ∧
      (BusCycle.mk false false false 0#4 0#32 true).passes = true ∧ State.reset.host = [] := by decide

/-- A reset while a request stands on the pins, from a state with every flag set. -/
theorem witness_ResetZeroesEveryBit_and_ResetAbandonsTheRequest :
    ({ withAcc 5#32 with host := [⟨true, true, true, 0#4, 7#32, true⟩] } : State).host =
      [⟨true, true, true, 0#4, 7#32, true⟩] ∧
    (BusCycle.mk true true true 0#4 7#32 true).rst = true ∧ State.reset.img = [] := by decide

theorem witness_StepKeepsMemoryCanonical :
    (withClock [0x00, 0x12]).img.wf = true ∧
      (nextState (step (issuing true 5#4 0#32 (withClock [0x00, 0x12])))).isSome = true := by decide

theorem witness_FlagsStaySetUntilReset :
    (nextState (step { State.reset with
      status := { illcmd := true, badbcd := false, range := false, wdbad := false }
      host := [⟨true, false, false, 0#4, 0#32, false⟩] })).map (fun t => t.status.get .illcmd) =
      some false := by decide

/-- Commands that change what they write, so that each clause's premise is met: year, month, day, hour,
minute and second by FROMEPOCH, the weekday and ACC by WDUNPACK, IMG[7] by PACKCLK, IMG[8] and IMG[11]
by CLRALM. -/
theorem witness_CommandsWriteOnlyTheirOwnState :
    tupleStatus .fromepoch (withAcc 1710495001#32) = some (tup 2024 3 15 0 9 30 1, 0) ∧
    (nextState (exec .wdunpack (withAcc 0x40#32))).map (fun t => (t.tuple.wday, t.acc)) =
      some (6, 6) ∧
    imgStatus .packclk (withTuple (tup 2024 3 15 2 9 30 0)) 7 1 = some ([0x24], 0) ∧
    imgStatus .clralm State.reset 8 4 = some ([0x08, 0x80, 0x80, 0x80], 0) := by decide

/-- RANGE at the edge of each clause: set just outside the contract, not set just inside, and refused for
the months 0 and 13 but not 1 and 12. -/
theorem witness_RangeIsSetExactlyWhenOutOfContract :
    accStatus .dec2bcd (withAcc 100#32) = some (0xA0, 4) ∧
    accStatus .wdpack (withAcc 7#32) = some (0x80, 4) ∧
    accStatus .days (withAcc 3155759999#32) = some (36524, 0) ∧
    accStatus .toepoch (withTuple (tup 2024 0 15 0 9 30 0)) = some (0, 4) ∧
    accStatus .toepoch (withTuple (tup 2024 13 15 0 9 30 0)) = some (0, 4) ∧
    accStatus .toepoch (withTuple (tup 1970 1 1 0 0 0 0)) = some (0, 0) ∧
    accStatus .toepoch (withTuple (tup 69 12 31 0 23 59 59)) = some (3155759999, 0) ∧
    imgStatus .packclk (withTuple (tup 2024 13 15 0 9 30 0)) 0 8 =
      some ([0, 0, 0, 0, 0, 0, 0, 0], 4) := by decide

theorem witness_BadbcdIsSetExactlyForAMalformedByte :
    accStatus .bcd2decYear (withAcc 0x9A#32) = some (100, 2) ∧
    accStatus .bcd2decYear (withAcc 0x99#32) = some (99, 0) := by decide

theorem witness_WdbadIsSetExactlyForAMalformedWeekday :
    accStatus .wdunpack (withAcc 0x81#32) = some (0, 0) ∧
    accStatus .wdunpack (withAcc 0x41#32) = some (6, 8) := by decide

theorem witness_BcdRoundTrips :
    (withAcc 0#32).acc.toNat ≤ 99 ∧ (withAcc 99#32).acc.toNat ≤ 99 ∧
      (0x99#8 : Byte).toNat / 16 ≤ 9 ∧ (0x99#8 : Byte).toNat % 16 ≤ 9 := by decide

/-- 29 February and 31 December 1972 are valid days of month, and 1460 is the last remainder. -/
theorem witness_YearofIsExactAndMonthdayInverts :
    1460 < 1461 ∧ moff 2 (leap (1970 + 2)) = some 30 ∧ threshold 3 (leap (1970 + 2)) = some 60 ∧
      (days 68169600 : Int) = ystart 2 + 30 + 29 ∧ moff 12 (leap (1970 + 2)) = some 334 ∧
      (days 94694399 : Int) = ystart 2 + 334 + 31 := by decide

/-- The months at the edges of the two clauses of TOEPOCH and PACKCLK: 0 and 13 refused, 1 and 12 not. -/
theorem witness_ToepochComputesTheEpochOrRefuses_and_Packclk :
    (withTuple (tup 0 0 0 0 0 0 0)).tuple.month.toNat < 1 ∧
    12 < (withTuple (tup 0 13 0 0 0 0 0)).tuple.month.toNat ∧
    1 ≤ (withTuple (tup 0 1 0 0 0 0 0)).tuple.month.toNat ∧
    (withTuple (tup 0 12 0 0 0 0 0)).tuple.month.toNat ≤ 12 := by decide

/-- The premise of the last clause: an epoch value inside the window. -/
theorem witness_EpochRoundTrips : (withAcc 3155759999#32).acc.toNat < 3155760000 := by decide

/-- 29 February 2024 and 31 December 2069 meet the premises on a date. -/
theorem witness_DateRoundTrips :
    (withTuple (tup 2024 2 29 0 23 59 59)).tuple.day.toNat ≤
      (thresholds 1).getD 2 0 - (thresholds 1).getD 1 0 ∧
    (withTuple (tup 2024 2 29 0 23 59 59)).tuple.year.toNat % 4 = 0 ∧
    (withTuple (tup 2069 12 31 0 23 59 59)).tuple.year.toNat = 2069 ∧
    (withTuple (tup 2069 12 31 0 23 59 59)).tuple.month.toNat = 12 ∧
    (withTuple (tup 2069 12 31 0 23 59 59)).tuple.day.toNat ≤ 31 ∧
    (withTuple (tup 2069 12 31 0 23 59 59)).tuple.hour.toNat ≤ 23 ∧
    (withTuple (tup 2069 12 31 0 23 59 59)).tuple.min.toNat ≤ 59 ∧
    (withTuple (tup 2069 12 31 0 23 59 59)).tuple.sec.toNat ≤ 59 := by decide

/-- The last second of the window meets the premises on a tuple in contract; month 12 those of the year
aliasing. -/
theorem witness_ClockImageRoundTrips_and_YearsAliasInTheClockImage :
    1970 ≤ (withTuple (tup 2069 12 31 0 23 59 59)).tuple.year.toNat ∧
    (withTuple (tup 2069 12 31 0 23 59 59)).tuple.year.toNat ≤ 2069 ∧
    1 ≤ (withTuple (tup 2069 12 31 0 23 59 59)).tuple.month.toNat ∧
    (withTuple (tup 2069 12 31 0 23 59 59)).tuple.month.toNat ≤ 12 ∧
    1 ≤ (withTuple (tup 2069 12 31 0 23 59 59)).tuple.day.toNat ∧
    (withTuple (tup 2069 12 31 0 23 59 59)).tuple.day.toNat ≤ 31 ∧
    (withTuple (tup 2069 12 31 0 23 59 59)).tuple.hour.toNat ≤ 23 ∧
    (withTuple (tup 2069 12 31 0 23 59 59)).tuple.min.toNat ≤ 59 ∧
    (withTuple (tup 2069 12 31 0 23 59 59)).tuple.sec.toNat ≤ 59 := by decide

end Sys2Proof.Tests
end

/-! PROOFS of the statements on the state and reset (10_state.md). First the normal form of a command:
what it leaves in T, in ACC and in IMG, and whether it sets BADBCD, RANGE and WDBAD, each a function that
names the commands that write (10_state.md R12; 60_exceptions.md R143 to R145). `exec_eq` ties these six
functions to `exec`, and the statements on commands follow from them. -/

namespace Sys2Proof.Machine

section NormalForm

/-- The seven data bytes of the clock image as UNPACKCLK reads them (43_register_image.md R120). -/
def State.clockBytes (s : State) : ClockBytes where
  sec := s.img.read 1 &&& decodeMask .sec
  min := s.img.read 2 &&& decodeMask .min
  hour := s.img.read 3 &&& decodeMask .hour
  wday := s.img.read 4
  day := s.img.read 5 &&& decodeMask .day
  month := s.img.read 6 &&& decodeMask .month
  year := s.img.read 7 &&& decodeMask .year

/-- What a command leaves in T: its ten writers, and T as it was for any other. -/
@[simp] def tupleAfter (i : Instr) (s : State) : Tuple :=
  match i with
  | .setfYear => { s.tuple with year := s.acc.setWidth 16 }
  | .setfMonth => { s.tuple with month := s.acc.setWidth 8 }
  | .setfDay => { s.tuple with day := s.acc.setWidth 8 }
  | .setfWday => { s.tuple with wday := s.acc.setWidth 8 }
  | .setfHour => { s.tuple with hour := s.acc.setWidth 8 }
  | .setfMin => { s.tuple with min := s.acc.setWidth 8 }
  | .setfSec => { s.tuple with sec := s.acc.setWidth 8 }
  | .wdunpack => { s.tuple with wday := wdscan s.accByte s.tuple.wday }
  | .fromepoch =>
    { year := (accResult (yearof s.accNat)).setWidth 16
      month := (accResult (monthof s.accNat)).setWidth 8
      day := (accResultInt (dayof s.accNat)).setWidth 8
      wday := s.tuple.wday
      hour := (accResult (hourof s.accNat)).setWidth 8
      min := (accResult (minof s.accNat)).setWidth 8
      sec := (accResult (secof s.accNat)).setWidth 8 }
  | .unpackclk => s.clockBytes.tuple s.tuple.wday
  | _ => s.tuple

/-- What a command leaves in ACC. -/
@[simp] def accAfter (i : Instr) (s : State) : Word :=
  match i with
  | .bcd2decYear => accResult (bcd2dec (s.accByte &&& decodeMask .year))
  | .bcd2decMonth => accResult (bcd2dec (s.accByte &&& decodeMask .month))
  | .bcd2decDay => accResult (bcd2dec (s.accByte &&& decodeMask .day))
  | .bcd2decHour => accResult (bcd2dec (s.accByte &&& decodeMask .hour))
  | .bcd2decMin => accResult (bcd2dec (s.accByte &&& decodeMask .min))
  | .bcd2decSec => accResult (bcd2dec (s.accByte &&& decodeMask .sec))
  | .dec2bcd => (dec2bcd s.accNat).setWidth 32
  | .wdpack => (wdpack s.accNat).setWidth 32
  | .wdunpack => (wdscan s.accByte s.tuple.wday).setWidth 32
  | .yeardec => accResult (yeardec s.accByte)
  | .days => accResult (days s.accNat)
  | .yearof => accResult (yearof s.accNat)
  | .doy => accResultInt (doy s.accNat)
  | .monthof => accResult (monthof s.accNat)
  | .dayof => accResultInt (dayof s.accNat)
  | .wdof => accResult (wdof s.accNat)
  | .getfYear => s.readField .year
  | .getfMonth => s.readField .month
  | .getfDay => s.readField .day
  | .getfWday => s.readField .wday
  | .getfHour => s.readField .hour
  | .getfMin => s.readField .min
  | .getfSec => s.readField .sec
  | .toepoch => s.tuple.epochZ.elim s.acc accResultInt
  | _ => s.acc

/-- What a command leaves in IMG: PACKCLK writes the clock image, CLRALM and PACKALM the alarm image. -/
@[simp] def imgAfter (i : Instr) (s : State) : Memory :=
  match i with
  | .packclk => s.tuple.epochZ.elim s.img fun z =>
      writtenFrom s.img 0 (clockImage s.tuple (wdof (accResultInt z).toNat))
  | .clralm => writtenFrom s.img 8 [alarmBase, alarmSentinel, alarmSentinel, alarmSentinel]
  | .packalm _ => writtenFrom s.img 8
      [alarmBase, dec2bcd s.alarmMinute.toNat, dec2bcd s.alarmHour.toNat, alarmSentinel]
  | _ => s.img

/-- Whether a command sets BADBCD (60_exceptions.md R143). -/
@[simp] def setsBadbcd (i : Instr) (s : State) : Bool :=
  match i with
  | .bcd2decYear => malformedBcd (s.accByte &&& decodeMask .year)
  | .bcd2decMonth => malformedBcd (s.accByte &&& decodeMask .month)
  | .bcd2decDay => malformedBcd (s.accByte &&& decodeMask .day)
  | .bcd2decHour => malformedBcd (s.accByte &&& decodeMask .hour)
  | .bcd2decMin => malformedBcd (s.accByte &&& decodeMask .min)
  | .bcd2decSec => malformedBcd (s.accByte &&& decodeMask .sec)
  | .yeardec => malformedBcd s.accByte
  | .unpackclk => s.clockBytes.malformed
  | _ => false

/-- Whether a command sets RANGE (60_exceptions.md R144). -/
@[simp] def setsRange (i : Instr) (s : State) : Bool :=
  match i with
  | .dec2bcd => outOfTwoDigits s.accNat
  | .wdpack => outOfWeek s.accNat
  | .days | .yearof | .doy | .monthof | .dayof | .wdof | .fromepoch => outOfWindow s.accNat
  | .toepoch | .packclk => s.tuple.outOfContract
  | .packalm _ => outOfTwoDigits s.alarmHour.toNat || outOfTwoDigits s.alarmMinute.toNat
  | _ => false

/-- Whether a command sets WDBAD (60_exceptions.md R145). -/
@[simp] def setsWdbad (i : Instr) (s : State) : Bool :=
  match i with
  | .wdunpack => malformedWeekday s.accByte
  | .unpackclk => malformedWeekday s.clockBytes.wday
  | _ => false

/-- The state after a command. ILLCMD is no command's flag: an illegal word sets it (60_exceptions.md
R142). -/
def State.after (s : State) (i : Instr) : State :=
  { s with
    tuple := tupleAfter i s
    acc := accAfter i s
    status := { s.status with
      badbcd := s.status.badbcd || setsBadbcd i s
      range := s.status.range || setsRange i s
      wdbad := s.status.wdbad || setsWdbad i s }
    img := imgAfter i s }

end NormalForm

section TupleOperand
variable (s : State)

/-- The tuple has an epoch value exactly for a month in 1..12 (41_calendar_engine.md R90). -/
theorem epochZ_eq_none (t : Tuple) :
    t.epochZ = none ↔ t.month.toNat < 1 ∨ 12 < t.month.toNat :=
  toepochZ_eq_none ..

/-- A tuple that TOEPOCH and PACKCLK refuse is out of contract (41_calendar_engine.md R91). -/
theorem outOfContract_of_epochZ_none {t : Tuple} (h : t.epochZ = none) : t.outOfContract = true := by
  have hmonth := (epochZ_eq_none t).mp h
  simp only [Tuple.outOfContract, inContract, Bool.not_eq_true', decide_eq_false_iff_not]
  omega

/-- TOEPOCH is refused for a month outside 1..12 (41_calendar_engine.md R99). -/
theorem execToepoch_none (h : s.tuple.epochZ = none) : execToepoch s = raise .range s := by
  simp [execToepoch, h]

/-- TOEPOCH with a legal month changes ACC and RANGE alone (41_calendar_engine.md R99). -/
theorem execToepoch_some (z : Int) (h : s.tuple.epochZ = some z) :
    execToepoch s = .next ((s.flagIf .range s.tuple.outOfContract).setAcc (accResultInt z)) := by
  simp [execToepoch, h]

/-- PACKCLK is refused for a month outside 1..12 (43_register_image.md R121). -/
theorem execPackclk_none (h : s.tuple.epochZ = none) : execPackclk s = raise .range s := by
  simp [execPackclk, h]

end TupleOperand

section ExecEquations
variable (s : State)

theorem execWdunpack_eq : execWdunpack s = .next (s.after .wdunpack) := by
  rw [execWdunpack, flagIf_wdbad]
  simp [State.after, State.writeField, State.setAcc]

theorem execToepoch_eq : execToepoch s = .next (s.after .toepoch) := by
  cases h : s.tuple.epochZ with
  | none =>
    rw [execToepoch_none s h, raise_eq]
    simp [State.after, h, outOfContract_of_epochZ_none h]
  | some z =>
    rw [execToepoch_some s z h, flagIf_range]
    simp [State.after, State.setAcc, h]

theorem execFromepoch_eq : execFromepoch s = .next (s.after .fromepoch) := by
  rw [execFromepoch, flagIf_range]
  simp [State.after, State.writeField]

/-- The reads of UNPACKCLK give `State.clockBytes`. -/
theorem readClockBytes_eq : readClockBytes s = .ok s.clockBytes := readClockBytes_ok s

theorem execUnpackclk_eq : execUnpackclk s = .next (s.after .unpackclk) := by
  simp [execUnpackclk, readClockBytes_eq, flagIf_badbcd, flagIf_wdbad, State.after]

theorem execPackclk_eq : execPackclk s = .next (s.after .packclk) := by
  cases h : s.tuple.epochZ with
  | none =>
    rw [execPackclk_none s h, raise_eq]
    simp [State.after, h, outOfContract_of_epochZ_none h]
  | some z =>
    rw [execPackclk_some s z h, flagIf_range]
    simp [State.after, h, accResultInt]

theorem execClralm_eq : execClralm s = .next (s.after .clralm) := by
  rw [execClralm, writeImgBytes_ok _ _ _ (by decide), finish_ok]
  simp [State.after]

theorem execPackalm_eq (idx : Nat) : execPackalm idx s = .next (s.after (.packalm idx)) := by
  rw [execPackalm, writeImgBytes_ok _ _ _ (by simp [Config.imgSize]), finish_ok, flagIf_range]
  simp [State.after]

/-- Every command in its normal form: it always answers, with the state `after`. -/
theorem exec_eq (i : Instr) : exec i s = .next (s.after i) := by
  cases i with
  | nop => simp [exec, execNop, State.after]
  | bcd2decYear | bcd2decMonth | bcd2decDay | bcd2decHour | bcd2decMin | bcd2decSec =>
    refine (bcd2decField_eq _ s).trans ?_
    simp [State.after, accResult]
  | dec2bcd => simp [exec, execDec2bcd, flagIf_range, State.setAcc, State.after]
  | wdpack => simp [exec, execWdpack, flagIf_range, State.setAcc, State.after]
  | wdunpack => exact execWdunpack_eq s
  | yeardec => simp [exec, execYeardec, flagIf_badbcd, State.setAcc, State.after]
  | days | yearof | doy | monthof | dayof | wdof =>
    simp [exec, execDays, execYearof, execDoy, execMonthof, execDayof, execWdof, epochScalar_eq,
      outOfWindow, State.accNat, State.after]
  | getfYear | getfMonth | getfDay | getfWday | getfHour | getfMin | getfSec =>
    refine (getField_eq _ s).trans ?_
    simp [State.after]
  | toepoch => exact execToepoch_eq s
  | setfYear | setfMonth | setfDay | setfWday | setfHour | setfMin | setfSec =>
    simp [exec, execSetfYear, execSetfMonth, execSetfDay, execSetfWday, execSetfHour, execSetfMin,
      execSetfSec, setField, State.writeField, State.after]
  | fromepoch => exact execFromepoch_eq s
  | unpackclk => exact execUnpackclk_eq s
  | packclk => exact execPackclk_eq s
  | clralm => exact execClralm_eq s
  | packalm idx => exact execPackalm_eq s idx

/-- A command that answers a state answers `after`. -/
theorem eq_after_of_exec {i : Instr} {s t : State} (h : exec i s = .next t) : t = s.after i := by
  rw [exec_eq] at h
  exact (Host.Outcome.next.inj h).symm

end ExecEquations

section FlagsAreInert
variable (i : Instr) (s : State) (st : Status)

/-! None of the functions of the normal form reads STATUS. -/

theorem tupleAfter_withStatus : tupleAfter i { s with status := st } = tupleAfter i s := rfl

theorem accAfter_withStatus : accAfter i { s with status := st } = accAfter i s := rfl

theorem imgAfter_withStatus : imgAfter i { s with status := st } = imgAfter i s := rfl

theorem setsBadbcd_withStatus : setsBadbcd i { s with status := st } = setsBadbcd i s := rfl

theorem setsRange_withStatus : setsRange i { s with status := st } = setsRange i s := rfl

theorem setsWdbad_withStatus : setsWdbad i { s with status := st } = setsWdbad i s := rfl

/-- From another STATUS a command leaves the same T, ACC and IMG, and adds the same flags. -/
theorem after_withStatus : ({ s with status := st } : State).after i =
    { s.after i with status := { st with
        badbcd := st.badbcd || setsBadbcd i s
        range := st.range || setsRange i s
        wdbad := st.wdbad || setsWdbad i s } } := by
  simp only [State.after, tupleAfter_withStatus, accAfter_withStatus, imgAfter_withStatus,
    setsBadbcd_withStatus, setsRange_withStatus, setsWdbad_withStatus]

end FlagsAreInert

/-- Settles O14: both runs in normal form, where no function reads STATUS. -/
theorem flagsNeverInfluenceACommand : Obligations.FlagsNeverInfluenceACommand := by
  intro i s
  refine ⟨{ s.after i with status := ⟨false, setsBadbcd i s, setsRange i s, setsWdbad i s⟩ }, ?_,
    fun st => ?_⟩
  · rw [exec_eq, after_withStatus]
    rfl
  · rw [exec_eq, after_withStatus]
    simp only [Bool.or_false]

section FlagsAreSticky

/-- No flag set in s is clear in t. -/
def KeepsFlags (s t : State) : Prop := ∀ x, s.status.get x = true → t.status.get x = true

theorem KeepsFlags.of_status_eq {s t : State} (h : t.status = s.status) : KeepsFlags s t :=
  fun x hx => by rw [h]; exact hx

theorem keepsFlags_after (i : Instr) (s : State) : KeepsFlags s (s.after i) := by
  intro x hx
  cases x with
  | illcmd => exact hx
  | badbcd | range | wdbad => simp_all [State.after]

theorem keepsFlags_setFlag (c : Cause) (s : State) : KeepsFlags s (s.setFlag c) := by
  intro x hx
  rw [setFlag_status, status_get_set, hx, Bool.true_or]

/-- A command word keeps every flag: a legal one runs its command, an illegal one raises ILLCMD. -/
theorem keepsFlags_runCommand {w : Byte} {s t : State} (h : runCommand w s = .next t) :
    KeepsFlags s t := by
  unfold runCommand at h
  cases hw : decode w with
  | ok i =>
    rw [hw] at h
    exact eq_after_of_exec h ▸ keepsFlags_after i s
  | error e =>
    rw [hw] at h
    exact Host.Outcome.next.inj h ▸ keepsFlags_setFlag .illcmd s

/-- A store at a port other than CMD never touches STATUS (20_memory.md R33, R39). -/
theorem storePort_status {p : Port} {v : Word} {s t : State} (h : storePort p v s = .ok t) :
    t.status = s.status := by
  cases p with
  | acc | cmd | status | reserved => cases h; rfl
  | img a =>
    obtain ⟨-, rfl⟩ := writeImg_inv h
    rfl

theorem hostRead_status {pa : PortAddr} {s t : State} (h : hostRead pa s = .next t) :
    t.status = s.status := by
  obtain ⟨v, hv⟩ := readPort_ok pa s
  simp only [hostRead, hv, Host.Outcome.next.injEq] at h
  rw [← h]

theorem eq_ok_of_finish {r : Except Fault State} {t : State} (h : finish r = .next t) :
    r = .ok t := by
  cases r with
  | ok u => rw [Host.Outcome.next.inj h]
  | error f => cases h

theorem keepsFlags_perform {r : Request} {s t : State} (h : perform r s = .next t) :
    KeepsFlags s t := by
  rw [perform_eq] at h
  split at h
  · split at h
    · exact (keepsFlags_runCommand h :)
    · exact .of_status_eq (storePort_status (eq_ok_of_finish h) :)
  · exact .of_status_eq (hostRead_status h)

/-- A step takes a reset or keeps every flag (10_state.md R15). -/
theorem step_reset_or_keepsFlags {s t : State} (h : step s = .next t) :
    (∃ c rest, s.host = c :: rest ∧ c.rst = true) ∨ KeepsFlags s t := by
  rw [step_eq] at h
  cases hhost : s.host with
  | nil =>
    simp only [hhost, Host.Outcome.next.injEq] at h
    exact .inr (.of_status_eq (by rw [← h]))
  | cons c rest =>
    simp only [hhost] at h
    split at h
    · exact .inl ⟨c, rest, rfl, ‹_›⟩
    · split at h
      · exact .inr (keepsFlags_perform h :)
      · exact .inr (.of_status_eq (by rw [← Host.Outcome.next.inj h]))

end FlagsAreSticky

/-- Settles O13: a flag that the step cleared was not kept, so the step took a reset. -/
theorem flagsStaySetUntilReset : Obligations.FlagsStaySetUntilReset := by
  intro s t x hstep hset hclear
  refine (step_reset_or_keepsFlags hstep).resolve_right fun hkeeps => ?_
  rw [hkeeps x hset] at hclear
  cases hclear

section Writers
variable (i : Instr) (s : State)

/-- A tuple register that differs after a command has the command among its writers. -/
theorem mem_writers_of_tupleAfter_ne :
    ((tupleAfter i s).year ≠ s.tuple.year → i ∈ [Instr.setfYear, .fromepoch, .unpackclk]) ∧
    ((tupleAfter i s).month ≠ s.tuple.month → i ∈ [Instr.setfMonth, .fromepoch, .unpackclk]) ∧
    ((tupleAfter i s).day ≠ s.tuple.day → i ∈ [Instr.setfDay, .fromepoch, .unpackclk]) ∧
    ((tupleAfter i s).wday ≠ s.tuple.wday → i ∈ [Instr.setfWday, .wdunpack, .unpackclk]) ∧
    ((tupleAfter i s).hour ≠ s.tuple.hour → i ∈ [Instr.setfHour, .fromepoch, .unpackclk]) ∧
    ((tupleAfter i s).min ≠ s.tuple.min → i ∈ [Instr.setfMin, .fromepoch, .unpackclk]) ∧
    ((tupleAfter i s).sec ≠ s.tuple.sec → i ∈ [Instr.setfSec, .fromepoch, .unpackclk]) := by
  unfold tupleAfter
  split <;> simp

/-- The commands that 70_reset_and_hazards.md R163 names keep ACC. -/
theorem accAfter_ne (h : accAfter i s ≠ s.acc) :
    i ∉ [Instr.nop, .setfYear, .setfMonth, .setfDay, .setfWday, .setfHour, .setfMin, .setfSec,
      .fromepoch, .unpackclk, .packclk, .clralm] ∧ ∀ idx, i ≠ .packalm idx := by
  unfold accAfter at h
  split at h <;> simp_all

/-- Bytes written from address a on leave every byte outside of them as it was. -/
theorem read_writtenFrom_outside {m : Memory} {vs : List Byte} {a b : Nat}
    (h : b < a ∨ a + vs.length ≤ b) : (writtenFrom m a vs).read b = m.read b := by
  rw [read_writtenFrom, if_neg (by omega)]

/-- PACKCLK writes IMG[0..7] alone. -/
theorem read_imgAfter_packclk {a : Nat} (ha : 8 ≤ a) :
    (imgAfter .packclk s).read a = s.img.read a := by
  cases h : s.tuple.epochZ with
  | none => simp [h]
  | some z =>
    simp only [imgAfter, h, Option.elim_some]
    exact read_writtenFrom_outside (.inr ha)

/-- A byte that differs after a command: PACKCLK wrote the clock image, or CLRALM or PACKALM the alarm
image. -/
theorem imgAfter_read_ne {a : Nat} (h : (imgAfter i s).read a ≠ s.img.read a) :
    (i = .packclk ∧ a < 8) ∨ (8 ≤ a ∧ a < 12 ∧ (i = .clralm ∨ ∃ idx, i = .packalm idx)) := by
  cases i with
  | packclk => exact .inl ⟨rfl, by_contra fun ha => h (read_imgAfter_packclk s (by omega))⟩
  | clralm =>
    have ha : ¬ (a < 8 ∨ 12 ≤ a) := fun ha => h (read_writtenFrom_outside ha)
    exact .inr ⟨by omega, by omega, .inl rfl⟩
  | packalm idx =>
    have ha : ¬ (a < 8 ∨ 12 ≤ a) := fun ha => h (read_writtenFrom_outside ha)
    exact .inr ⟨by omega, by omega, .inr ⟨idx, rfl⟩⟩
  | _ => exact absurd rfl h

end Writers

/-- Settles O16: the writers of each component of `after`. -/
theorem commandsWriteOnlyTheirOwnState : Obligations.CommandsWriteOnlyTheirOwnState := by
  intro i s t hexec
  obtain rfl := eq_after_of_exec hexec
  obtain ⟨hyear, hmonth, hday, hwday, hhour, hmin, hsec⟩ := mem_writers_of_tupleAfter_ne i s
  refine ⟨hyear, hmonth, hday, hwday, hhour, hmin, hsec, accAfter_ne i s, ?_, ?_, rfl, rfl⟩
  · intro a ha hne
    obtain ⟨hi, -⟩ | ⟨ha', -⟩ := imgAfter_read_ne i s hne
    · exact hi
    · omega
  · intro a ha hne
    obtain ⟨-, ha'⟩ | ⟨-, himg⟩ := imgAfter_read_ne i s hne
    · omega
    · exact himg

/-- The reset month is 0, so TOEPOCH and PACKCLK refuse the reset tuple (10_state.md R20). -/
theorem epochZ_of_month_zero {t : Tuple} (h : t.month = 0) : t.epochZ = none :=
  (epochZ_eq_none t).mpr (.inl (by simp [h]))

/-- Settles O9: a reset cycle answers State.reset but for the host's signals, and the month 0 is no
month. -/
theorem resetZeroesEveryBit : Obligations.ResetZeroesEveryBit := by
  refine ⟨⟨rfl, rfl, rfl, fun _ => rfl⟩, ?_, ?_⟩
  · intro s c rest hhost hrst
    exact ⟨_, by rw [step_eq, hhost]; exact if_pos hrst, rfl, rfl, rfl, fun _ => rfl⟩
  · rintro s ⟨htuple, -⟩ i hi
    have hz : s.tuple.epochZ = none := epochZ_of_month_zero (by rw [htuple])
    simp only [List.mem_cons, List.not_mem_nil, or_false] at hi
    rcases hi with rfl | rfl
    · exact execToepoch_none s hz
    · exact execPackclk_none s hz

end Sys2Proof.Machine

/-! PROOFS of the statements on the ports and the bus (20_memory.md). First the step by what the next bus
cycle is (R44), one equation for each kind of cycle; then a transaction by its port (R31), with the
equation of a port read and of a port store. The statements follow from these. -/

namespace Sys2Proof.Machine

section StepByBusCycle
variable {s : State} {c : BusCycle} {rest : List BusCycle}

/-- With no cycle placed the block is idle (60_exceptions.md R153). -/
theorem step_of_host_nil (hhost : s.host = []) : step s = .next { s with answer := .noAck } := by
  rw [step_eq, hhost]

theorem step_of_rst (hhost : s.host = c :: rest) (hrst : c.rst = true) :
    step s = .next { State.reset with host := rest } := by
  rw [step_eq, hhost]
  exact if_pos hrst

theorem step_of_passes (hhost : s.host = c :: rest) (hpasses : c.passes = true) :
    step s = .next { s with host := rest, answer := .noAck } := by
  obtain ⟨hrst, hanswered⟩ : c.rst = false ∧ (c.req && c.ready) = false := by
    simpa only [BusCycle.passes, Bool.and_eq_true, Bool.not_eq_true'] using hpasses
  rw [step_eq, hhost]
  simp [hrst, hanswered]

/-- The transaction of an answered request is performed with its cycle taken off the host's signals. -/
theorem step_of_answersNext {r : Request} (h : s.answersNext r rest) :
    step s = perform r { s with host := rest } := by
  obtain ⟨c, hhost, hrst, hreq, hready, rfl⟩ := h
  rw [step_eq, hhost]
  simp [hrst, hreq, hready]

/-- Every cycle is a reset, passes, or answers the request on its pins. -/
theorem cycle_cases (hhost : s.host = c :: rest) :
    c.rst = true ∨ c.passes = true ∨ s.answersNext c.request rest := by
  cases hrst : c.rst with
  | true => exact .inl rfl
  | false =>
    cases hanswered : c.req && c.ready with
    | false => exact .inr (.inl (by simp [BusCycle.passes, hrst, hanswered]))
    | true =>
      obtain ⟨hreq, hready⟩ := (Bool.and_eq_true _ _).mp hanswered
      exact .inr (.inr ⟨c, hhost, hrst, hreq, hready, rfl⟩)

end StepByBusCycle

section TransactionByPort
variable (s : State) (pa : PortAddr) (v : Word)

/-- The weights of the flags in STATUS as its port shows it (20_memory.md R31). -/
theorem status_toWord_eq (st : Status) :
    st.toWord = BitVec.ofNat 32 (st.illcmd.toNat + 2 * st.badbcd.toNat + 4 * st.range.toNat +
      8 * st.wdbad.toNat) := by
  simp only [Status.toWord, Cause.code]
  congr 1
  omega

/-- What the port map shows of the state at a port address (20_memory.md R31). -/
def State.mappedWord (s : State) (pa : PortAddr) : Word :=
  if pa.toNat = 0 then s.acc
  else if pa.toNat = 2 then
    BitVec.ofNat 32 (s.status.illcmd.toNat + 2 * s.status.badbcd.toNat +
      4 * s.status.range.toNat + 8 * s.status.wdbad.toNat)
  else if 4 ≤ pa.toNat then (s.img.read (pa.toNat - 4)).setWidth 32
  else 0#32

/-- Every port of an image byte names an address of IMG (20_memory.md R30, R31). -/
theorem imgPort_lt : pa.toNat - 4 < Config.imgSize := by
  have := pa.isLt
  simp only [Config.imgSize]
  omega

theorem readPort_eq : readPort (portOf pa) s = .ok (s.mappedWord pa) := by
  obtain ⟨rfl, hport⟩ | ⟨rfl, hport⟩ | ⟨rfl, hport⟩ | ⟨rfl, hport⟩ | ⟨hpa, hport⟩ := portOf_cases pa
  · rw [hport]; rfl
  · rw [hport]; rfl
  · rw [hport, readPort, status_toWord_eq]; rfl
  · rw [hport]; rfl
  · rw [hport, readPort, readImg_ok _ _ (imgPort_lt pa), State.mappedWord, if_neg (by omega),
      if_neg (by omega), if_pos hpa]

/-- A port store writes ACC at port 0, one byte of IMG at the ports 4 to 15, and nothing at the others
(20_memory.md R31, R33, R34). -/
theorem storePort_eq : storePort (portOf pa) v s = .ok { s with
    acc := if pa.toNat = 0 then v else s.acc
    img := if 4 ≤ pa.toNat then s.img.write (pa.toNat - 4) (v.setWidth 8) else s.img } := by
  obtain ⟨rfl, hport⟩ | ⟨rfl, hport⟩ | ⟨rfl, hport⟩ | ⟨rfl, hport⟩ | ⟨hpa, hport⟩ := portOf_cases pa
  · rw [hport]; rfl
  · rw [hport]; rfl
  · rw [hport]; rfl
  · rw [hport]; rfl
  · rw [hport, storePort, writeImg_ok _ _ _ (imgPort_lt pa), if_neg (by omega), if_pos hpa]

theorem runCommand_of_decode {w : Byte} {i : Instr} (hw : decode w = .ok i) :
    runCommand w s = exec i s := by
  simp [runCommand, hw]

theorem perform_read :
    perform ⟨false, pa, v⟩ s = .next { s with answer := .readData (s.mappedWord pa) } := by
  rw [perform_eq, if_neg Bool.false_ne_true, hostRead, readPort_eq]

theorem perform_command :
    perform ⟨true, 1#4, v⟩ s = runCommand (v.setWidth 8) { s with answer := .written } := by
  rw [perform_eq, if_pos rfl, if_pos rfl]

theorem perform_store (hpa : pa ≠ 1#4) : perform ⟨true, pa, v⟩ s = .next { s with
    acc := if pa.toNat = 0 then v else s.acc
    img := if 4 ≤ pa.toNat then s.img.write (pa.toNat - 4) (v.setWidth 8) else s.img
    answer := .written } := by
  rw [perform_eq, if_pos rfl, if_neg hpa, storePort_eq, finish_ok]

/-- withFetchWord places a request to CMD that carries the low eight bits of w. -/
theorem answersNext_withFetchWord (w : Nat) :
    (s.withFetchWord 8 w).answersNext ⟨true, 1#4, (BitVec.ofNat 8 w).setWidth 32⟩ s.host := by
  have hbyte : commandByte 8 w = BitVec.ofNat 8 w := BitVec.eq_of_toNat_eq (by simp [commandByte])
  exact ⟨_, rfl, rfl, rfl, rfl, by rw [← hbyte]; rfl⟩

/-- The step that answers a write of a legal word to CMD runs its command (20_memory.md R32). -/
theorem step_of_answersNext_command {s : State} {v : Word} {rest : List BusCycle} {i : Instr}
    (hanswers : s.answersNext ⟨true, 1#4, v⟩ rest) (hdecode : decode (v.setWidth 8) = .ok i) :
    step s = exec i { s with host := rest, answer := .written } := by
  rw [step_of_answersNext hanswers, perform_command, runCommand_of_decode _ hdecode]

end TransactionByPort

section MemoryStaysCanonical
variable {s t : State}

theorem clockImage_length (t : Tuple) (w : Nat) : (clockImage t w).length = 8 := rfl

/-- The commands that write IMG write inside its twelve bytes. -/
theorem wf_imgAfter (i : Instr) (hs : s.img.wf = true) : (imgAfter i s).wf = true := by
  cases i with
  | packclk =>
    cases hz : s.tuple.epochZ with
    | none => simpa [hz] using hs
    | some z =>
      simp only [imgAfter, hz, Option.elim_some]
      exact wf_writtenFrom _ _ _ (by rw [clockImage_length]; decide) hs
  | clralm => exact wf_writtenFrom _ _ _ (by decide) hs
  | packalm idx => exact wf_writtenFrom _ _ _ (by simp [Config.imgSize]) hs
  | _ => exact hs

theorem wf_runCommand {w : Byte} (h : runCommand w s = .next t) (hs : s.img.wf = true) :
    t.img.wf = true := by
  cases hw : decode w with
  | ok i =>
    rw [runCommand_of_decode s hw] at h
    rw [eq_after_of_exec h]
    exact wf_imgAfter i hs
  | error e =>
    simp only [runCommand, hw, raise, Host.Outcome.next.injEq] at h
    rw [← h]
    exact hs

theorem wf_perform {r : Request} (h : perform r s = .next t) (hs : s.img.wf = true) :
    t.img.wf = true := by
  obtain ⟨we, pa, v⟩ := r
  cases we with
  | false =>
    rw [perform_read, Host.Outcome.next.injEq] at h
    rw [← h]
    exact hs
  | true =>
    by_cases hpa : pa = 1#4
    · subst hpa
      rw [perform_command] at h
      exact wf_runCommand h hs
    · rw [perform_store s pa v hpa, Host.Outcome.next.injEq] at h
      rw [← h]
      simp only
      split
      · exact memory_wf_write _ _ _ (imgPort_lt pa) hs
      · exact hs

end MemoryStaysCanonical

/-- Settles O12: a reset empties IMG, a transaction writes inside of it, any other step keeps it. -/
theorem stepKeepsMemoryCanonical : Obligations.StepKeepsMemoryCanonical := by
  intro s t hs hstep
  cases hhost : s.host with
  | nil =>
    rw [step_of_host_nil hhost, Host.Outcome.next.injEq] at hstep
    rw [← hstep]
    exact hs
  | cons c rest =>
    obtain hrst | hpasses | hanswers := cycle_cases hhost
    · rw [step_of_rst hhost hrst, Host.Outcome.next.injEq] at hstep
      rw [← hstep]
      exact memory_wf_nil
    · rw [step_of_passes hhost hpasses, Host.Outcome.next.injEq] at hstep
      rw [← hstep]
      exact hs
    · rw [step_of_answersNext hanswers] at hstep
      exact wf_perform hstep hs

/-- Settles O6: the answered read answers `mappedWord`. -/
theorem portReadReturnsTheMappedValue : Obligations.PortReadReturnsTheMappedValue := by
  intro s pa v rest hanswers
  rw [step_of_answersNext hanswers, perform_read]
  rfl

/-- Settles O7: the store's equation, and the read law of the one byte it writes. -/
theorem portWriteStoresOrDoesNothing : Obligations.PortWriteStoresOrDoesNothing := by
  intro s pa v rest hpa hanswers
  refine ⟨_, (step_of_answersNext hanswers).trans (perform_store _ pa v hpa), rfl, rfl, rfl, rfl, rfl,
    fun a => ?_⟩
  by_cases himg : 4 ≤ pa.toNat
  · simp [himg, memory_read_write]
  · simp [himg]

/-- Settles O5: a write to CMD runs its word, and withFetchWord places such a write. -/
theorem stepRunsTheDecodedCommand : Obligations.StepRunsTheDecodedCommand := by
  refine ⟨fun s v rest i hanswers hdecode => step_of_answersNext_command hanswers hdecode,
    fun s w i hdecode => step_of_answersNext_command (answersNext_withFetchWord s w) ?_⟩
  rw [BitVec.setWidth_setWidth_of_le _ (by decide), BitVec.setWidth_eq]
  exact hdecode

/-- Settles O8: the equations of the step for a cycle that passes and for no cycle. -/
theorem waitingCycleChangesNothing : Obligations.WaitingCycleChangesNothing :=
  ⟨fun _ _ _ => step_of_passes, fun _ => step_of_host_nil⟩

end Sys2Proof.Machine

/-! PROOFS of the statements on the encoding (30_encoding.md). A command word is its two fields (R45).
`decode_reads` says once what the decoder can answer: a well-formed command whose word is these fields,
or a rejection of fields on R49's list. It is proved group by group, as R47 lists the groups; the
statements follow from it and from `decode_encode`. -/

namespace Sys2Proof.Machine

section Fields

/-- The command word with the given fields (30_encoding.md R45). -/
def wordOf (opc sel : Nat) : Byte := BitVec.ofNat 8 (16 * opc + sel)

variable {opc sel : Nat} (w : Byte)

theorem selField_lt : selField w < 16 := Nat.mod_lt _ (by decide)

@[simp] theorem wordOf_fields : wordOf (opcField w) (selField w) = w := by
  rw [wordOf, opcField, selField, Nat.div_add_mod, BitVec.ofNat_toNat, BitVec.setWidth_eq]

theorem wordOf_toNat (hopc : opc < 16) (hsel : sel < 16) : (wordOf opc sel).toNat = 16 * opc + sel := by
  rw [wordOf, BitVec.toNat_ofNat, Nat.mod_eq_of_lt (by omega)]

theorem opcField_wordOf (hopc : opc < 16) (hsel : sel < 16) : opcField (wordOf opc sel) = opc := by
  rw [opcField, wordOf_toNat hopc hsel]
  omega

theorem selField_wordOf (hopc : opc < 16) (hsel : sel < 16) : selField (wordOf opc sel) = sel := by
  rw [selField, wordOf_toNat hopc hsel]
  omega

/-- The fields of the illegal words (30_encoding.md R49). -/
abbrev IllegalFields (opc sel : Nat) : Prop :=
  opc = 0 ∧ sel ≠ 0 ∨ opc = 1 ∧ (sel = 3 ∨ sel = 7 ∨ 8 ≤ sel) ∨ opc = 2 ∧ 4 ≤ sel ∨
    opc = 3 ∧ 6 ≤ sel ∨ (opc = 4 ∨ opc = 5) ∧ 8 ≤ sel ∨ opc = 6 ∧ 3 ≤ sel ∨ 8 ≤ opc

end Fields

section DecodeByGroup

/-- An answer that reads the fields as the opcode map does (30_encoding.md R47 to R49): the command
they spell, or a rejection where they are illegal. -/
inductive Reads (opc sel : Nat) : Except IllegalWord Instr → Prop where
  | command {i : Instr} (word : encode i = wordOf opc sel) (wellFormed : i.wellFormed = true)
      (legal : ¬IllegalFields opc sel) : Reads opc sel (.ok i)
  | rejected {e : IllegalWord} (illegal : IllegalFields opc sel) : Reads opc sel (.error e)

variable (sel : Nat)

theorem reads_nopGroup : Reads 0 sel (if sel = 0 then .ok .nop else .error .nopSelector) := by
  split
  next h =>
    subst h
    exact .command rfl rfl (by decide)
  next h => exact .rejected (.inl ⟨rfl, h⟩)

theorem reads_bcdGroup : Reads 1 sel (decodeBcdGroup sel) := by
  match sel with
  | 0 | 1 | 2 | 4 | 5 | 6 => exact .command rfl rfl (by decide)
  | 3 | 7 => exact .rejected (by decide)
  | n + 8 => exact .rejected (by omega)

theorem reads_codecGroup : Reads 2 sel (decodeCodecGroup sel) := by
  match sel with
  | 0 | 1 | 2 | 3 => exact .command rfl rfl (by decide)
  | n + 4 => exact .rejected (by omega)

theorem reads_calendarGroup : Reads 3 sel (decodeCalendarGroup sel) := by
  match sel with
  | 0 | 1 | 2 | 3 | 4 | 5 => exact .command rfl rfl (by decide)
  | n + 6 => exact .rejected (by omega)

theorem reads_getGroup : Reads 4 sel (decodeGetGroup sel) := by
  match sel with
  | 0 | 1 | 2 | 3 | 4 | 5 | 6 | 7 => exact .command rfl rfl (by decide)
  | n + 8 => exact .rejected (by omega)

theorem reads_setGroup : Reads 5 sel (decodeSetGroup sel) := by
  match sel with
  | 0 | 1 | 2 | 3 | 4 | 5 | 6 | 7 => exact .command rfl rfl (by decide)
  | n + 8 => exact .rejected (by omega)

theorem reads_imageGroup : Reads 6 sel (decodeImageGroup sel) := by
  match sel with
  | 0 | 1 | 2 => exact .command rfl rfl (by decide)
  | n + 3 => exact .rejected (by omega)

theorem encode_packalm {idx : Nat} (hidx : idx < 16) : encode (.packalm idx) = wordOf 7 idx := by
  rw [encode, Nat.mod_eq_of_lt hidx, wordOf]

/-- The index of PACKALM is any selector (30_encoding.md R50). -/
theorem reads_alarmGroup (hsel : sel < 16) : Reads 7 sel (.ok (.packalm sel)) :=
  .command (encode_packalm hsel) (decide_eq_true hsel) (by omega)

theorem decode_reads (w : Byte) : Reads (opcField w) (selField w) (decode w) := by
  have hsel := selField_lt w
  unfold decode
  match opcField w with
  | 0 => exact reads_nopGroup _
  | 1 => exact reads_bcdGroup _
  | 2 => exact reads_codecGroup _
  | 3 => exact reads_calendarGroup _
  | 4 => exact reads_getGroup _
  | 5 => exact reads_setGroup _
  | 6 => exact reads_imageGroup _
  | 7 => exact reads_alarmGroup _ hsel
  | n + 8 => exact .rejected (by omega)

/-- A word decodes exactly when its fields are not on R49's list. -/
theorem exists_decode_eq_ok_iff (w : Byte) :
    (∃ i, decode w = .ok i) ↔ ¬IllegalFields (opcField w) (selField w) := by
  have hreads := decode_reads w
  cases hw : decode w with
  | ok i =>
    rw [hw] at hreads
    obtain ⟨-, -, hlegal⟩ := hreads
    exact iff_of_true ⟨i, rfl⟩ hlegal
  | error e =>
    rw [hw] at hreads
    obtain - | hillegal := hreads
    exact iff_of_false (fun ⟨_, h⟩ => nomatch h) (not_not_intro hillegal)

theorem decode_packalm {idx : Nat} (hidx : idx < 16) : decode (wordOf 7 idx) = .ok (.packalm idx) := by
  rw [decode, opcField_wordOf (by decide) hidx, selField_wordOf (by decide) hidx]
  rfl

end DecodeByGroup

/-- Settles O1: each word without an operand is a row of the map, and PACKALM's index is its selector. -/
theorem decodeOfEncodeIsTheCommand : Obligations.DecodeOfEncodeIsTheCommand := by
  intro i hwf
  cases i with
  | packalm idx =>
    have hidx : idx < 16 := of_decide_eq_true hwf
    rw [encode_packalm hidx, decode_packalm hidx]
  | _ => rfl

/-- Settles O2: a command that is read spells the fields of its word. -/
theorem encodeOfDecodeIsTheWord : Obligations.EncodeOfDecodeIsTheWord := by
  intro w i hw
  have hreads := decode_reads w
  rw [hw] at hreads
  obtain ⟨hword, hwf, -⟩ := hreads
  exact ⟨hword.trans (wordOf_fields w), hwf⟩

/-- An illegal word raises ILLCMD (30_encoding.md R49). -/
theorem runCommand_of_illegal {w : Byte} (h : IllegalFields (opcField w) (selField w)) (s : State) :
    runCommand w s = raise .illcmd s := by
  cases hw : decode w with
  | ok i => exact absurd h ((exists_decode_eq_ok_iff w).mp ⟨i, hw⟩)
  | error e => simp [runCommand, hw]

/-- Settles O4: what decodes is what is not on the list, and an illegal word raises ILLCMD. -/
theorem illegalWordSetsIllcmdAlone : Obligations.IllegalWordSetsIllcmdAlone := by
  refine fun w => ⟨exists_decode_eq_ok_iff w, fun hillegal s v rest hanswers hv => ?_⟩
  subst hv
  have hstep : step s = raise .illcmd { s with host := rest, answer := .written } := by
    rw [step_of_answersNext hanswers, perform_command, runCommand_of_illegal hillegal]
  exact ⟨_, hstep, rfl, rfl, rfl, rfl, rfl, rfl⟩

/-- The words below `16 * groups`, group by group and selector by selector (30_encoding.md R45). -/
theorem range_eq_flatMap_fields (groups : Nat) : List.range (16 * groups) =
    (List.range groups).flatMap fun opc => (List.range 16).map (16 * opc + ·) := by
  induction groups with
  | zero => rfl
  | succ opc ih => simp [Nat.mul_succ, List.range_add, List.range_succ (n := opc), ih]

/-- The number of legal words in each group, as R47 counts them. -/
theorem legalWords_per_group :
    (List.range 16).map (fun opc =>
      (List.range 16).countP fun sel => (decodeTableWord 8 (16 * opc + sel)).isSome) =
    [1, 6, 4, 6, 8, 8, 3, 16, 0, 0, 0, 0, 0, 0, 0, 0] := by
  decide

/-- Settles O3: each word of the map is its command's word, and the legal words are summed by group. -/
theorem opcodeMapWordsDecode : Obligations.OpcodeMapWordsDecode := by
  refine ⟨fun p hp => ?_, fun k hk => decode_packalm hk, ?_⟩
  · obtain ⟨hword, hwf⟩ : encode p.2 = p.1 ∧ p.2.wellFormed = true := by
      revert p
      decide
    rw [← hword]
    exact decodeOfEncodeIsTheCommand p.2 hwf
  · rw [range_eq_flatMap_fields 16, List.countP_flatMap]
    simp only [Function.comp_def, List.countP_map, legalWords_per_group]
    rfl

end Sys2Proof.Machine

/-! PROOFS of the statements on the codec commands (40_register_codec.md). First the pure functions as
section 1 of that file defines them: a byte's value as a number, the BCD round trip on bytes, the weekday
scan by induction on the number of bits scanned, and the count of weekday bits as the size of a set. Then
the commands' equations, from their normal form, and the statements follow. -/

namespace Sys2Proof.Machine

section BcdBytes

/-- A byte result in ACC is its value as a word (00_scope.md R5). -/
theorem setWidth_byte (b : Byte) : b.setWidth 32 = BitVec.ofNat 32 b.toNat :=
  (BitVec.ofNat_toNat 32 b).symm

theorem accByte_toNat (s : State) : s.accByte.toNat = s.acc.toNat % 256 := BitVec.toNat_setWidth ..

theorem bcd2dec_eq (b : Byte) : bcd2dec b = b.toNat / 16 * 10 + b.toNat % 16 := rfl

theorem wdpack_toNat (w : Nat) : (wdpack w).toNat = 2 ^ w % 256 := by
  simp [wdpack_eq]

/-- BADBCD as one condition on the byte's value (60_exceptions.md R143). -/
theorem malformedBcd_eq (b : Byte) :
    malformedBcd b = decide (9 < b.toNat / 16 ∨ 9 < b.toNat % 16) :=
  (Bool.decide_or ..).symm

/-- The mask of YEAR keeps every bit (40_register_codec.md R61). -/
theorem and_decodeMask_year (b : Byte) : b &&& decodeMask .year = b :=
  BitVec.and_allOnes

variable {n : Nat}

/-- The byte of a two-digit number has no bit to drop. -/
theorem dec2bcd_toNat_of_le (hn : n ≤ 99) : (dec2bcd n).toNat = n / 10 * 16 + n % 10 := by
  rw [dec2bcd_toNat]
  omega

theorem bcd2dec_dec2bcd (hn : n ≤ 99) : bcd2dec (dec2bcd n) = n := by
  rw [bcd2dec_eq, dec2bcd_toNat_of_le hn]
  omega

theorem malformedBcd_dec2bcd (hn : n ≤ 99) : malformedBcd (dec2bcd n) = false := by
  rw [malformedBcd_eq, dec2bcd_toNat_of_le hn, decide_eq_false_iff_not]
  omega

/-- The inverse on bytes (40_register_codec.md R71). Only the low nibble has to be a digit: the tens of a
value of 100 or above fill the high nibble again. -/
theorem dec2bcd_bcd2dec {b : Byte} (hlo : b.toNat % 16 ≤ 9) : dec2bcd (bcd2dec b) = b := by
  apply BitVec.eq_of_toNat_eq
  rw [dec2bcd_toNat, bcd2dec_eq]
  omega

end BcdBytes

section WeekdayScan
variable (b prev : Byte)

/-- The scan of `wdscan` over the lowest n bits. -/
def scanBelow (n : Nat) : Byte :=
  (List.range n).foldl (fun r i => if b.getLsbD i then BitVec.ofNat 8 i else r) prev

theorem wdscan_eq_scanBelow : wdscan b prev = scanBelow b prev 7 := rfl

theorem scanBelow_succ (n : Nat) :
    scanBelow b prev (n + 1) = if b.getLsbD n then BitVec.ofNat 8 n else scanBelow b prev n := by
  rw [scanBelow, List.range_succ, List.foldl_append]
  rfl

/-- `IsWeekdayScan` for the lowest n bits. -/
def IsScanBelow (n : Nat) (w : Byte) : Prop :=
  (∀ i < n, b.getLsbD i = false) ∧ w = prev ∨
    w.toNat < n ∧ b.getLsbD w.toNat = true ∧ ∀ i < n, w.toNat < i → b.getLsbD i = false

/-- The last match of the ascending scan is the highest set bit. -/
theorem isScanBelow_scanBelow (n : Nat) (hn : n ≤ 8) :
    IsScanBelow b prev n (scanBelow b prev n) := by
  induction n with
  | zero => exact .inl ⟨fun i hi => absurd hi (Nat.not_lt_zero i), rfl⟩
  | succ n ih =>
    rw [scanBelow_succ]
    cases hbit : b.getLsbD n with
    | true =>
      have hval : (BitVec.ofNat 8 n).toNat = n := by
        rw [BitVec.toNat_ofNat, Nat.mod_eq_of_lt (by omega)]
      rw [if_pos rfl, IsScanBelow, hval]
      exact .inr ⟨n.lt_succ_self, hbit, fun i hi hlt => by omega⟩
    | false =>
      rw [if_neg Bool.false_ne_true]
      obtain ⟨hclear, heq⟩ | ⟨hlt, hset, habove⟩ := ih (by omega)
      · exact .inl ⟨Nat.forall_lt_succ_right.mpr ⟨hclear, hbit⟩, heq⟩
      · exact .inr ⟨by omega, hset, Nat.forall_lt_succ_right.mpr ⟨habove, fun _ => hbit⟩⟩

/-- `wdscan` gives the highest set bit of bits 6:0, or the previous value (40_register_codec.md R64). -/
theorem isWeekdayScan_wdscan : IsWeekdayScan b prev (wdscan b prev) := by
  rw [wdscan_eq_scanBelow]
  exact isScanBelow_scanBelow b prev 7 (by decide)

/-- The weekday bits as the set of their positions. -/
theorem weekdayBits_eq_card :
    weekdayBits b = ((Finset.range 7).filter fun i => b.getLsbD i).card := by
  rw [← Nat.count_eq_card_filter_range, Nat.count]
  simp only [Bool.decide_eq_true]
  rfl

theorem weekdayBits_eq_one_iff : weekdayBits b = 1 ↔ OneWeekdayBit b := by
  simp only [weekdayBits_eq_card, Finset.card_eq_one, Finset.eq_singleton_iff_unique_mem,
    Finset.mem_filter, Finset.mem_range, OneWeekdayBit, and_assoc, and_imp]

/-- WDBAD as a condition on the bits (60_exceptions.md R145). -/
theorem malformedWeekday_iff : malformedWeekday b = true ↔ ¬OneWeekdayBit b := by
  rw [malformedWeekday, decide_eq_true_eq, ne_eq, weekdayBits_eq_one_iff]

end WeekdayScan

section CodecCommands
variable (s : State)

/-- A command word whose fields are illegal decodes to no command (30_encoding.md R49). -/
theorem decode_wordOf_ne_ok {opc sel : Nat} (hopc : opc < 16) (hsel : sel < 16)
    (hillegal : IllegalFields opc sel) (i : Instr) : decode (wordOf opc sel) ≠ .ok i := by
  intro hdecode
  have hlegal := (exists_decode_eq_ok_iff _).mp ⟨i, hdecode⟩
  rw [opcField_wordOf hopc hsel, selField_wordOf hopc hsel] at hlegal
  exact hlegal hillegal

/-- BCD2DEC of a field, with its value and its flag as numbers (40_register_codec.md R66). -/
theorem bcd2decField_eq_nibbles (f : BcdField) :
    let m := (s.acc.setWidth 8 &&& decodeMask f).toNat
    bcd2decField f s = .next { s with
      acc := BitVec.ofNat 32 (m / 16 * 10 + m % 16)
      status := { s.status with
        badbcd := s.status.badbcd || decide (9 < m / 16 ∨ 9 < m % 16) } } := by
  rw [bcd2decField_eq, bcd2dec_eq, malformedBcd_eq]
  rfl

theorem exec_dec2bcd : exec .dec2bcd s = .next { s with
    acc := (dec2bcd s.acc.toNat).setWidth 32
    status := { s.status with range := s.status.range || outOfTwoDigits s.acc.toNat } } := by
  rw [exec_eq]
  simp [State.after, State.accNat]

theorem exec_wdpack : exec .wdpack s = .next { s with
    acc := (wdpack s.acc.toNat).setWidth 32
    status := { s.status with range := s.status.range || outOfWeek s.acc.toNat } } := by
  rw [exec_eq]
  simp [State.after, State.accNat]

theorem exec_yeardec : exec .yeardec s = .next { s with
    acc := BitVec.ofNat 32 (yeardec s.accByte)
    status := { s.status with badbcd := s.status.badbcd || malformedBcd s.accByte } } := by
  rw [exec_eq]
  simp [State.after, accResult]

/-- BCD2DEC YEAR on the byte of a two-digit number puts the number in ACC and sets no flag. -/
theorem exec_bcd2decYear_of_acc {s : State} {n : Nat} (hn : n ≤ 99)
    (hacc : s.acc = (dec2bcd n).setWidth 32) :
    exec .bcd2decYear s = .next { s with acc := BitVec.ofNat 32 n } := by
  have hbyte : s.accByte = dec2bcd n := by
    rw [State.accByte, hacc, BitVec.setWidth_setWidth_of_le _ (by decide), BitVec.setWidth_eq]
  refine (bcd2decField_eq .year s).trans ?_
  rw [hbyte, and_decodeMask_year, bcd2dec_dec2bcd hn, malformedBcd_dec2bcd hn, Bool.or_false]

end CodecCommands

/-- Settles O23: the scan and the flag of the normal form, each by its law. -/
theorem wdunpackScansTheWeekdayByte : Obligations.WdunpackScansTheWeekdayByte := by
  refine ⟨rfl, fun s => ⟨_, exec_eq s .wdunpack, isWeekdayScan_wdscan _ _, rfl, rfl, ?_, ?_, rfl, rfl,
    rfl⟩⟩
  · simp [State.after]
  · rw [← malformedWeekday_iff, ← Bool.or_eq_true]
    rfl

/-- Settles O22: the model's cut-off power is the low byte of the power. -/
theorem wdpackWritesTheLowByteOfThePower : Obligations.WdpackWritesTheLowByteOfThePower := by
  refine ⟨rfl, fun s => ?_⟩
  rw [exec_wdpack, setWidth_byte, wdpack_toNat, outOfWeek]

/-- Settles O21: the value of the BCD byte. -/
theorem dec2bcdWritesTheBcdByte : Obligations.Dec2bcdWritesTheBcdByte := by
  refine ⟨rfl, fun s => ?_⟩
  rw [exec_dec2bcd, setWidth_byte, dec2bcd_toNat, outOfTwoDigits]

/-- Settles O24: the pivot and the nibbles as numbers of the byte in ACC. -/
theorem yeardecAppliesThePivot : Obligations.YeardecAppliesThePivot := by
  refine ⟨rfl, fun s => ?_⟩
  rw [exec_yeardec, yeardec, malformedBcd_eq, bcd2dec_eq, accByte_toNat]

/-- Settles O20: each field by `bcd2decField_eq_nibbles`, and the other selectors are on R49's list. -/
theorem bcd2decWritesTheMaskedDecimal : Obligations.Bcd2decWritesTheMaskedDecimal := by
  constructor
  · simp only [List.forall_mem_cons]
    exact ⟨⟨rfl, fun s => bcd2decField_eq_nibbles s .year⟩,
      ⟨rfl, fun s => bcd2decField_eq_nibbles s .month⟩,
      ⟨rfl, fun s => bcd2decField_eq_nibbles s .day⟩,
      ⟨rfl, fun s => bcd2decField_eq_nibbles s .hour⟩,
      ⟨rfl, fun s => bcd2decField_eq_nibbles s .min⟩,
      ⟨rfl, fun s => bcd2decField_eq_nibbles s .sec⟩, List.forall_mem_nil _⟩
  · have hillegal : ∀ sel ∈ [3, 7, 8, 9, 10, 11, 12, 13, 14, 15], sel < 16 ∧ IllegalFields 1 sel := by
      decide
    intro sel hmem
    obtain ⟨hsel, hfields⟩ := hillegal sel hmem
    exact decode_wordOf_ne_ok (by decide) hsel hfields

/-- Settles O25: DEC2BCD leaves the BCD byte in ACC and sets no flag, and the byte decodes to the
number. -/
theorem bcdRoundTrips : Obligations.BcdRoundTrips := by
  refine ⟨fun s hacc => ⟨_, exec_dec2bcd s, ?_⟩, fun _ _ => dec2bcd_bcd2dec⟩
  have hflag : outOfTwoDigits s.acc.toNat = false := decide_eq_false (by omega)
  refine (exec_bcd2decYear_of_acc hacc rfl).trans ?_
  rw [hflag, Bool.or_false, BitVec.ofNat_toNat, BitVec.setWidth_eq]

end Sys2Proof.Machine

/-! PROOFS of the statements on the calendar commands (41_calendar_engine.md). First the years as spans of
day numbers (R83, R101) and the months as spans of days of the year (R85), in natural numbers, each tied to
the model's function. Then `IsDate`, the one date of a day number, which the year quotient and the month
scan compute; and `Tuple.ShowsEpoch`, a tuple that holds the date and the time of day of an epoch value,
from which both round trips follow. -/

namespace Sys2Proof.Machine

section YearLadder
variable (D yo : Nat)

/-- `ystart` of a year from 1970 on, as a number of days (41_calendar_engine.md R83). -/
def yearStart (yo : Nat) : Nat := yo * 365 + (yo + 1) / 4

theorem ystart_natCast : ystart (yo : Int) = yearStart yo := by
  rw [ystart_eq, yearStart]
  norm_cast

/-- `leap` of a year from 0 on, as a number of days (41_calendar_engine.md R80). -/
def leapDay (y : Nat) : Nat := if y % 4 = 0 then 1 else 0

theorem leap_natCast (y : Nat) : leap (y : Int) = leapDay y := by
  unfold leap leapDay
  split <;> split <;> omega

theorem leapDay_le_one (y : Nat) : leapDay y ≤ 1 := by
  unfold leapDay
  split <;> decide

/-- A year has 365 days, or 366 in a leap year. -/
theorem yearStart_succ : yearStart (yo + 1) = yearStart yo + 365 + leapDay (1970 + yo) := by
  unfold yearStart leapDay
  split <;> omega

theorem yearStart_mono {yo yo' : Nat} (h : yo ≤ yo') : yearStart yo ≤ yearStart yo' := by
  unfold yearStart
  omega

/-- The window is a hundred years (41_calendar_engine.md R91). -/
theorem yearStart_hundred : yearStart 100 = 36525 := rfl

/-- The year of a day number is exact: the biased quotient picks the year in which the day lies
(41_calendar_engine.md R101). -/
theorem yearOffset_eq_iff :
    (4 * D + 2) / 1461 = yo ↔ yearStart yo ≤ D ∧ D < yearStart (yo + 1) := by
  unfold yearStart
  omega

theorem yearStart_yearoff_le (e : Nat) : yearStart (yearoff e) ≤ days e :=
  ((yearOffset_eq_iff _ _).mp rfl).1

theorem days_lt_yearStart_succ (e : Nat) : days e < yearStart (yearoff e + 1) :=
  ((yearOffset_eq_iff _ _).mp rfl).2

theorem doy_eq (e : Nat) : doy e = (days e - yearStart (yearoff e) : Nat) := by
  rw [doy, ystart_natCast, Nat.cast_sub (yearStart_yearoff_le e)]

/-- Four years have 1461 days (41_calendar_engine.md R101). -/
theorem yearStart_four_mul_add (q k : Nat) : yearStart (4 * q + k) = 1461 * q + yearStart k := by
  unfold yearStart
  omega

theorem ystart_four_mul_add (q k : Nat) :
    ystart ((4 * q + k : Nat) : Int) = 1461 * q + (yearStart k : Int) := by
  rw [ystart_natCast, yearStart_four_mul_add, Nat.cast_add, Nat.cast_mul, Nat.cast_ofNat]

/-- The year of a day of the cycle, by the year of its place in the cycle. -/
theorem yearOffset_four_mul_add (q : Nat) {r k : Nat} (hstart : yearStart k ≤ r)
    (hnext : r < yearStart (k + 1)) : (4 * (1461 * q + r) + 2) / 1461 = 4 * q + k := by
  rw [yearOffset_eq_iff, add_assoc, yearStart_four_mul_add, yearStart_four_mul_add]
  omega

/-- A day number in its year (41_calendar_engine.md R101). -/
theorem days_in_year (e : Nat) :
    ystart (yearoff e) ≤ days e ∧ (days e : Int) < ystart ((yearoff e : Int) + 1) ∧
      0 ≤ doy e ∧ doy e ≤ 364 + leap (yearof e) := by
  have hstart := yearStart_yearoff_le e
  have hnext := days_lt_yearStart_succ e
  have hlen := yearStart_succ (yearoff e)
  rw [doy_eq, leap_natCast, ystart_natCast, ← Nat.cast_add_one, ystart_natCast, yearof]
  omega

end YearLadder

section MonthLadder
variable {L n m dm : Nat}

/-- `TH(m, L)`: the days of the year before month m (41_calendar_engine.md R85). -/
def daysBefore (L m : Nat) : Nat := (thresholds L).getD (m - 1) 0

theorem isMonthDay_iff : IsMonthDay L n m dm ↔
    1 ≤ m ∧ m ≤ 12 ∧ daysBefore L m ≤ n ∧ (m = 12 ∨ n < daysBefore L (m + 1)) ∧
      dm = n - daysBefore L m + 1 :=
  Iff.rfl

theorem threshold_eq_some_iff {th : Int} :
    threshold m (L : Int) = some th ↔ 1 ≤ m ∧ m ≤ 12 ∧ th = daysBefore L m := by
  match m with
  | 0 => simp [threshold, monthTable, List.lookup]
  | 1 | 2 | 3 | 4 | 5 | 6 | 7 | 8 | 9 | 10 | 11 | 12 =>
    simp [threshold, monthTable, List.lookup, daysBefore, thresholds, eq_comm]
  | k + 13 => simp [threshold, monthTable, List.lookup]

theorem moff_eq_some_iff {off : Int} :
    moff m (L : Int) = some off ↔ 1 ≤ m ∧ m ≤ 12 ∧ off = daysBefore L m - 1 := by
  rw [moff, Option.map_eq_some_iff]
  constructor
  · rintro ⟨th, hth, rfl⟩
    obtain ⟨hlo, hhi, rfl⟩ := threshold_eq_some_iff.mp hth
    exact ⟨hlo, hhi, rfl⟩
  · rintro ⟨hlo, hhi, rfl⟩
    exact ⟨_, threshold_eq_some_iff.mpr ⟨hlo, hhi, rfl⟩, rfl⟩

/-- The month offsets as R89 tabulates them. -/
theorem monthOffsets_getD (L : Nat) (hlo : 1 ≤ m) (hhi : m ≤ 12) :
    ([-1, 30, 58 + L, 89 + L, 119 + L, 150 + L, 180 + L, 211 + L, 242 + L, 272 + L, 303 + L, 333 + L] :
      List Int).getD (m - 1) 0 = daysBefore L m - 1 := by
  interval_cases m <;> simp [daysBefore, thresholds] <;> omega

/-- Each month but December has between 28 and 31 days. -/
theorem daysBefore_succ_bounds (hL : L ≤ 1) (hlo : 1 ≤ m) (hhi : m < 12) :
    daysBefore L m + 28 ≤ daysBefore L (m + 1) ∧ daysBefore L (m + 1) ≤ daysBefore L m + 31 := by
  interval_cases m <;> simp [daysBefore, thresholds] <;> omega

theorem daysBefore_mono (hL : L ≤ 1) {m' : Nat} (hlo : 1 ≤ m) (hm : m ≤ m') (hhi : m' ≤ 12) :
    daysBefore L m ≤ daysBefore L m' := by
  induction m', hm using Nat.le_induction with
  | base => exact le_rfl
  | succ k hk ih =>
    obtain ⟨hstep, -⟩ := daysBefore_succ_bounds hL (hlo.trans hk) hhi
    have := ih (by omega)
    omega

/-- A day of the year lies in one month only. -/
theorem isMonthDay_unique {m' dm' : Nat} (hL : L ≤ 1) (h : IsMonthDay L n m dm)
    (h' : IsMonthDay L n m' dm') : m = m' ∧ dm = dm' := by
  rw [isMonthDay_iff] at h h'
  obtain ⟨hlo, hhi, hreach, hnext, rfl⟩ := h
  obtain ⟨hlo', hhi', hreach', hnext', rfl⟩ := h'
  obtain hlt | rfl | hgt := Nat.lt_trichotomy m m'
  · have := daysBefore_mono (m := m + 1) hL (by omega) hlt hhi'
    omega
  · exact ⟨rfl, rfl⟩
  · have := daysBefore_mono (m := m' + 1) hL (by omega) hgt hhi
    omega

/-- No day of the month is past the 31st. -/
theorem day_le_of_isMonthDay (hL : L ≤ 1) (hn : n < 365 + L) (h : IsMonthDay L n m dm) :
    dm ≤ 31 := by
  obtain ⟨hlo, hhi, hreach, hnext, rfl⟩ := isMonthDay_iff.mp h
  obtain rfl | hlt := hhi.eq_or_lt
  · have hdec : daysBefore L 12 = 334 + L := rfl
    omega
  · obtain ⟨-, hlen⟩ := daysBefore_succ_bounds hL hlo hlt
    omega

/-- The rows of the ladder from month k + 1 down to February (41_calendar_engine.md R85). -/
def ladderTo (L : Nat) : Nat → List (Nat × Int)
  | 0 => []
  | k + 1 => (k + 2, (daysBefore L (k + 2) : Int)) :: ladderTo L k

theorem monthTable_natCast (L : Nat) : monthTable (L : Int) = ladderTo L 11 := by
  simp [monthTable, ladderTo, daysBefore, thresholds]

/-- The first row that the day reaches is the last month of the year that it reaches. -/
theorem monthScan_ladderTo (L n k : Nat) : ∃ m dm : Nat,
    monthScan n (ladderTo L k) = (m, (dm : Int)) ∧ 1 ≤ m ∧ m ≤ k + 1 ∧ daysBefore L m ≤ n ∧
      (m = k + 1 ∨ n < daysBefore L (m + 1)) ∧ dm = n - daysBefore L m + 1 := by
  induction k with
  | zero => exact ⟨1, n + 1, rfl, le_rfl, le_rfl, Nat.zero_le n, .inl rfl, rfl⟩
  | succ k ih =>
    rw [ladderTo, monthScan]
    split
    next hreach =>
      exact ⟨k + 2, n - daysBefore L (k + 2) + 1, by push_cast [Int.ofNat_le.mp hreach]; rfl, by omega,
        le_rfl, Int.ofNat_le.mp hreach, .inl rfl, rfl⟩
    next hreach =>
      obtain ⟨m, dm, hscan, hlo, hhi, hle, hnext, hday⟩ := ih
      refine ⟨m, dm, hscan, hlo, by omega, hle, .inr ?_, hday⟩
      obtain rfl | hlt := hnext
      · exact Int.ofNat_lt.mp (not_le.mp hreach)
      · exact hlt

/-- The scan of the ladder gives the month and the day of the month (41_calendar_engine.md R85). -/
theorem exists_isMonthDay (L n : Nat) : ∃ m dm : Nat,
    monthScan n (monthTable L) = (m, (dm : Int)) ∧ IsMonthDay L n m dm := by
  rw [monthTable_natCast]
  exact monthScan_ladderTo L n 11

end MonthLadder

section Dates
variable {D yo m dm : Nat}

/-- Day number D is day dm of month m of the year 1970 + yo. -/
structure IsDate (D yo m dm : Nat) : Prop where
  start_le : yearStart yo ≤ D
  lt_next : D < yearStart (yo + 1)
  monthDay : IsMonthDay (leapDay (1970 + yo)) (D - yearStart yo) m dm

/-- The day number of a date, as R90 sums it up. -/
theorem IsDate.day_eq (h : IsDate D yo m dm) :
    D + 1 = yearStart yo + daysBefore (leapDay (1970 + yo)) m + dm := by
  obtain ⟨-, -, hreach, -, hday⟩ := isMonthDay_iff.mp h.monthDay
  have := h.start_le
  omega

theorem IsDate.month_pos (h : IsDate D yo m dm) : 1 ≤ m := by
  obtain ⟨hlo, -⟩ := isMonthDay_iff.mp h.monthDay
  exact hlo

theorem IsDate.month_le (h : IsDate D yo m dm) : m ≤ 12 := by
  obtain ⟨-, hhi, -⟩ := isMonthDay_iff.mp h.monthDay
  exact hhi

theorem IsDate.day_pos (h : IsDate D yo m dm) : 1 ≤ dm := by
  obtain ⟨-, -, -, -, rfl⟩ := isMonthDay_iff.mp h.monthDay
  omega

theorem IsDate.day_le (h : IsDate D yo m dm) : dm ≤ 31 := by
  have := h.lt_next
  rw [yearStart_succ] at this
  have := h.start_le
  exact day_le_of_isMonthDay (leapDay_le_one _) (by omega) h.monthDay

/-- A day before the next year's start is in no later year. -/
theorem IsDate.year_le {n : Nat} (h : IsDate D yo m dm) (hD : D < yearStart (n + 1)) : yo ≤ n := by
  by_contra hgt
  have := yearStart_mono (yo := n + 1) (yo' := yo) (by omega)
  have := h.start_le
  omega

/-- A day that its month has is the date of the day number that R90 sums up (41_calendar_engine.md
R101). -/
theorem isDate_of_month_has_day (hlo : 1 ≤ m) (hdm : 1 ≤ dm)
    (hmonth : m = 12 ∧ dm ≤ 31 ∨ m < 12 ∧
      daysBefore (leapDay (1970 + yo)) m + dm ≤ daysBefore (leapDay (1970 + yo)) (m + 1))
    (hD : D + 1 = yearStart yo + daysBefore (leapDay (1970 + yo)) m + dm) : IsDate D yo m dm := by
  have hnext := yearStart_succ yo
  have hdec : daysBefore (leapDay (1970 + yo)) 12 = 334 + leapDay (1970 + yo) := rfl
  obtain ⟨rfl, hlast⟩ | ⟨hlt, hfits⟩ := hmonth
  · exact ⟨by omega, by omega, isMonthDay_iff.mpr ⟨hlo, le_rfl, by omega, .inl rfl, by omega⟩⟩
  · have := daysBefore_mono (m := m + 1) (leapDay_le_one (1970 + yo)) (by omega) hlt le_rfl
    exact ⟨by omega, by omega,
      isMonthDay_iff.mpr ⟨hlo, hlt.le, by omega, .inr (by omega), by omega⟩⟩

/-- A month with an offset, and a day before the next month's threshold, are a date
(41_calendar_engine.md R101). -/
theorem isDate_of_moff {off : Int} (hoff : moff m (leap (1970 + yo)) = some off)
    (hdm : 1 ≤ dm)
    (hmonth : m = 12 ∧ dm ≤ 31 ∨ ∃ th,
      threshold (m + 1) (leap (1970 + yo)) = some th ∧ off + dm < th)
    (hD : (D : Int) = ystart yo + off + dm) : IsDate D yo m dm := by
  have hleap : leap (1970 + yo) = leapDay (1970 + yo) := leap_natCast (1970 + yo)
  simp only [hleap, threshold_eq_some_iff] at hoff hmonth
  obtain ⟨hlo, -, rfl⟩ := moff_eq_some_iff.mp hoff
  rw [ystart_natCast] at hD
  refine isDate_of_month_has_day hlo hdm ?_ (by omega)
  obtain h12 | ⟨th, ⟨-, hlt, rfl⟩, hfits⟩ := hmonth
  · exact .inl h12
  · exact .inr ⟨by omega, by omega⟩

/-- Every date of the window has a day number in the window. -/
theorem exists_isDate_of_day_le {y : Nat} (hy : 1970 ≤ y) (hy' : y ≤ 2069) (hlo : 1 ≤ m)
    (hhi : m ≤ 12) (hdm : 1 ≤ dm)
    (hdm' : dm ≤ if m = 12 then 31
      else daysBefore (leapDay y) (m + 1) - daysBefore (leapDay y) m) :
    ∃ D < 36525, IsDate D (y - 1970) m dm := by
  obtain ⟨yo, rfl⟩ := Nat.exists_eq_add_of_le hy
  rw [Nat.add_sub_cancel_left]
  have hdate := isDate_of_month_has_day (yo := yo) hlo hdm
    (by split at hdm' <;> omega) (Nat.sub_add_cancel (by omega))
  have hwindow := yearStart_mono (yo := yo + 1) (yo' := 100) (by omega)
  exact ⟨_, (hdate.lt_next.trans_le hwindow).trans_eq yearStart_hundred, hdate⟩

/-- The scans of an epoch value give the date of its day number. -/
theorem exists_isDate (e : Nat) : ∃ m dm : Nat,
    monthof e = m ∧ dayof e = dm ∧ IsDate (days e) (yearoff e) m dm := by
  obtain ⟨m, dm, hscan, hday⟩ :=
    exists_isMonthDay (leapDay (yearof e)) (days e - yearStart (yearoff e))
  have hmonthday : monthday e = (m, (dm : Int)) := by
    rw [monthday, doy_eq, leap_natCast, hscan]
  exact ⟨m, dm, congrArg Prod.fst hmonthday, congrArg Prod.snd hmonthday,
    yearStart_yearoff_le e, days_lt_yearStart_succ e, hday⟩

/-- A day number has one date: the one that the scans give (41_calendar_engine.md R101). -/
theorem scans_eq_of_isDate {e : Nat} (h : IsDate (days e) yo m dm) :
    yearoff e = yo ∧ monthof e = m ∧ dayof e = dm := by
  obtain ⟨m', dm', hmonth, hday, hscans⟩ := exists_isDate e
  have hyear : yearoff e = yo := (yearOffset_eq_iff _ _).mpr ⟨h.start_le, h.lt_next⟩
  rw [hyear] at hscans
  obtain ⟨rfl, rfl⟩ := isMonthDay_unique (leapDay_le_one _) h.monthDay hscans.monthDay
  exact ⟨hyear, hmonth, hday⟩

end Dates

section EpochOfTuple
variable {t : Tuple} {e : Nat}

/-- `toepoch_z` of a legal month, by the thresholds (41_calendar_engine.md R89, R90). -/
theorem toepochZ_of_month {mo : Nat} (y d h mi sec : Nat) (hlo : 1 ≤ mo) (hhi : mo ≤ 12) :
    toepochZ y mo d h mi sec = some ((((ystart ((normyear y : Int) - 1970) +
      (daysBefore (leapDay (normyear y)) mo - 1) + d) * 24 + h) * 60 + mi) * 60 + sec) := by
  have hoff := (moff_eq_some_iff (L := leapDay (normyear y))).mpr ⟨hlo, hhi, rfl⟩
  rw [toepochZ, leap_natCast, hoff, Option.map_some]

/-- The tuple is the date and the time of day of the epoch value e. -/
structure Tuple.ShowsEpoch (t : Tuple) (e : Nat) : Prop where
  year_ge : 1970 ≤ t.year.toNat
  date : IsDate (days e) (t.year.toNat - 1970) t.month.toNat t.day.toNat
  hour : t.hour.toNat = hourof e
  min : t.min.toNat = minof e
  sec : t.sec.toNat = secof e

theorem hourof_lt (e : Nat) : hourof e < 24 := Nat.mod_lt _ (by decide)

theorem minof_lt (e : Nat) : minof e < 60 := Nat.mod_lt _ (by decide)

theorem secof_lt (e : Nat) : secof e < 60 := Nat.mod_lt _ (by decide)

/-- Days, hours, minutes and seconds are the digits of the epoch value (41_calendar_engine.md R87). -/
theorem epoch_digits (e : Nat) : ((days e * 24 + hourof e) * 60 + minof e) * 60 + secof e = e := by
  unfold days hourof minof secof
  omega

/-- A year of four digits is normal (41_calendar_engine.md R88). -/
theorem normyear_of_ge {y : Nat} (hy : 1970 ≤ y) : normyear y = y := if_neg (by omega)

theorem epochZ_of_showsEpoch (h : t.ShowsEpoch e) : t.epochZ = some (e : Int) := by
  obtain ⟨hyear, hdate, hhour, hmin, hsec⟩ := h
  have hday := hdate.day_eq
  have hdigits := epoch_digits e
  rw [Nat.add_sub_cancel' hyear] at hday
  have hyo : (t.year.toNat : Int) - 1970 = (t.year.toNat - 1970 : Nat) := by omega
  rw [Tuple.epochZ, toepochZ_of_month _ _ _ _ _ hdate.month_pos hdate.month_le, normyear_of_ge hyear,
    hyo, ystart_natCast, hhour, hmin, hsec]
  congr 1
  omega

/-- RANGE of TOEPOCH with a legal month, as R91 spells the contract out. -/
theorem outOfContract_of_month (hlo : 1 ≤ t.month.toNat) (hhi : t.month.toNat ≤ 12) :
    t.outOfContract = decide (¬(1970 ≤ normyear t.year.toNat ∧ normyear t.year.toNat ≤ 2069 ∧
      1 ≤ t.day.toNat ∧ t.day.toNat ≤ 31 ∧ t.hour.toNat ≤ 23 ∧ t.min.toNat ≤ 59 ∧
      t.sec.toNat ≤ 59)) := by
  simp only [Tuple.outOfContract, inContract, hlo, hhi, true_and, decide_not]

/-- The tuple of an epoch value inside the window is in contract (41_calendar_engine.md R91). -/
theorem outOfContract_of_showsEpoch (h : t.ShowsEpoch e) (he : e < 3155760000) :
    t.outOfContract = false := by
  obtain ⟨hyear, hdate, hhour, hmin, hsec⟩ := h
  have hyo : t.year.toNat - 1970 ≤ 99 := hdate.year_le <| by
    rw [yearStart_hundred, days]
    omega
  have hday := hdate.day_pos
  have hday' := hdate.day_le
  have hh := hourof_lt e
  have hm := minof_lt e
  have hs := secof_lt e
  rw [outOfContract_of_month hdate.month_pos hdate.month_le, normyear_of_ge hyear]
  exact decide_eq_false (by omega)

/-- A date and a time of day are an epoch value (41_calendar_engine.md R90). -/
theorem showsEpoch_of_isDate {D : Nat} (hyear : 1970 ≤ t.year.toNat)
    (hdate : IsDate D (t.year.toNat - 1970) t.month.toNat t.day.toNat)
    (hhour : t.hour.toNat ≤ 23) (hmin : t.min.toNat ≤ 59) (hsec : t.sec.toNat ≤ 59) :
    t.ShowsEpoch (((D * 24 + t.hour.toNat) * 60 + t.min.toNat) * 60 + t.sec.toNat) where
  year_ge := hyear
  date := by rwa [days, show _ / 86400 = D by omega]
  hour := by unfold hourof; omega
  min := by unfold minof; omega
  sec := by unfold secof; omega

end EpochOfTuple

section ScalarCommands
variable (s : State)

theorem accResultInt_natCast (n : Nat) : accResultInt n = BitVec.ofNat 32 n :=
  BitVec.ofInt_natCast ..

theorem outOfWindow_eq (e : Nat) : outOfWindow e = decide (3155760000 ≤ e) := by
  rw [outOfWindow, inWindow, ← decide_not, decide_eq_decide]
  exact not_lt

theorem outOfWindow_of_lt {e : Nat} (he : e < 3155760000) : outOfWindow e = false := by
  rw [outOfWindow_eq, decide_eq_false (not_le.mpr he)]

/-- What a scalar command on an epoch value leaves: its result in ACC, and RANGE set outside the window
(41_calendar_engine.md R93 to R98). -/
def State.withScalar (s : State) (n : Nat) : State :=
  { s with
    acc := BitVec.ofNat 32 n
    status := { s.status with range := s.status.range || decide (3155760000 ≤ s.acc.toNat) } }

theorem epochScalar_eq_withScalar {f : Nat → Word} {n : Nat}
    (hf : f s.acc.toNat = BitVec.ofNat 32 n) :
    epochScalar f s = .next (s.withScalar n) := by
  rw [epochScalar_eq, hf, State.withScalar, ← outOfWindow_eq, outOfWindow]

theorem epochScalar_nat (f : Nat → Nat) :
    epochScalar (fun e => accResult (f e)) s = .next (s.withScalar (f s.acc.toNat)) :=
  epochScalar_eq_withScalar s rfl

theorem epochScalar_int {f : Nat → Int} {n : Nat} (hf : f s.acc.toNat = n) :
    epochScalar (fun e => accResultInt (f e)) s = .next (s.withScalar n) :=
  epochScalar_eq_withScalar s (by rw [hf, accResultInt_natCast])

end ScalarCommands

section DateCommands
variable {s : State} {yo m dm : Nat}

/-- TOEPOCH with a legal month (41_calendar_engine.md R99). -/
theorem exec_toepoch_some {z : Int} (hz : s.tuple.epochZ = some z) :
    exec .toepoch s = .next { s with
      acc := accResultInt z
      status := { s.status with range := s.status.range || s.tuple.outOfContract } } := by
  refine (execToepoch_some s z hz).trans ?_
  rw [flagIf_range, State.setAcc]

/-- The tuple that FROMEPOCH leaves, for the date of the epoch value in ACC (41_calendar_engine.md
R100). -/
theorem tupleAfter_fromepoch (hdate : IsDate (days s.acc.toNat) yo m dm) :
    tupleAfter .fromepoch s =
      { year := BitVec.ofNat 16 (1970 + yo), month := BitVec.ofNat 8 m, day := BitVec.ofNat 8 dm,
        wday := s.tuple.wday, hour := BitVec.ofNat 8 (hourof s.acc.toNat),
        min := BitVec.ofNat 8 (minof s.acc.toNat), sec := BitVec.ofNat 8 (secof s.acc.toNat) } := by
  obtain ⟨rfl, rfl, hday⟩ := scans_eq_of_isDate hdate
  simp only [tupleAfter, State.accNat, hday, accResultInt_natCast, accResult,
    BitVec.setWidth_ofNat_of_le (show 16 ≤ 32 by decide),
    BitVec.setWidth_ofNat_of_le (show 8 ≤ 32 by decide), yearof]

/-- A 32-bit epoch value is before the year 2107 (41_calendar_engine.md R82). -/
theorem year_le_of_isDate_acc (hdate : IsDate (days s.acc.toNat) yo m dm) : yo ≤ 136 := by
  have hacc := s.acc.isLt
  refine hdate.year_le ?_
  rw [days, yearStart]
  omega

theorem showsEpoch_after_fromepoch (s : State) :
    (s.after .fromepoch).tuple.ShowsEpoch s.acc.toNat := by
  obtain ⟨m, dm, -, -, hdate⟩ := exists_isDate s.acc.toNat
  have hyear := year_le_of_isDate_acc hdate
  have hmonth := hdate.month_le
  have hday := hdate.day_le
  have hhour := hourof_lt s.acc.toNat
  have hmin := minof_lt s.acc.toNat
  have hsec := secof_lt s.acc.toNat
  rw [State.after, tupleAfter_fromepoch hdate]
  constructor
  all_goals simp only [BitVec.toNat_ofNat]
  case date =>
    rw [Nat.mod_eq_of_lt (by omega), Nat.mod_eq_of_lt (by omega), Nat.mod_eq_of_lt (by omega),
      Nat.add_sub_cancel_left]
    exact hdate
  all_goals omega

/-- FROMEPOCH changes no register of a tuple that shows the epoch value in ACC. -/
theorem tupleAfter_fromepoch_of_showsEpoch (h : s.tuple.ShowsEpoch s.acc.toNat) :
    tupleAfter .fromepoch s = s.tuple := by
  obtain ⟨hyear, hdate, hhour, hmin, hsec⟩ := h
  rw [tupleAfter_fromepoch hdate, Nat.add_sub_cancel' hyear, ← hhour, ← hmin, ← hsec]
  simp only [BitVec.ofNat_toNat, BitVec.setWidth_eq]

end DateCommands

/-- Settles O26: each command's function by its name, and `doy` as a number of days. -/
theorem epochScalarsWriteTheirFormula : Obligations.EpochScalarsWriteTheirFormula :=
  ⟨rfl, rfl, rfl, rfl, fun s => ⟨epochScalar_nat s days, epochScalar_nat s yearof,
    ⟨yearStart_yearoff_le _, epochScalar_int s (doy_eq _)⟩, epochScalar_nat s wdof⟩⟩

/-- Settles O27: the scans of the epoch value give the date of its day number. -/
theorem monthofAndDayofFollowTheLadder : Obligations.MonthofAndDayofFollowTheLadder := by
  refine ⟨rfl, rfl, fun s => ?_⟩
  obtain ⟨m, dm, rfl, hday, hdate⟩ := exists_isDate s.acc.toNat
  exact ⟨_, dm, hdate.monthDay, epochScalar_nat s monthof, epochScalar_int s hday⟩

/-- Settles O28: the year by its place in the four-year cycle, and the date of a valid day is the
one that the scans give. -/
theorem yearofIsExactAndMonthdayInverts : Obligations.YearofIsExactAndMonthdayInverts := by
  refine ⟨fun q r hr => ?_, days_in_year, fun yo mo dm e off hoff hdm hmonth hdays => ?_⟩
  · split_ifs with h0 h1 h2
    · exact ⟨yearOffset_four_mul_add q (Nat.zero_le r) h0, ystart_four_mul_add q 0⟩
    · exact ⟨yearOffset_four_mul_add q (not_lt.mp h0) h1, ystart_four_mul_add q 1⟩
    · exact ⟨yearOffset_four_mul_add q (not_lt.mp h1) h2, ystart_four_mul_add q 2⟩
    · exact ⟨yearOffset_four_mul_add q (not_lt.mp h2) hr, ystart_four_mul_add q 3⟩
  · obtain ⟨rfl, hscans⟩ := scans_eq_of_isDate (isDate_of_moff hoff hdm hmonth hdays)
    exact ⟨rfl, hscans⟩

/-- Settles O29: the refusal, and the month's offset and the contract as the statement spells them
out. -/
theorem toepochComputesTheEpochOrRefuses : Obligations.ToepochComputesTheEpochOrRefuses := by
  refine ⟨rfl, fun s => ⟨fun hmonth => ?_, fun hlo hhi => ?_⟩⟩
  · exact execToepoch_none s ((epochZ_eq_none s.tuple).mpr hmonth)
  · refine (exec_toepoch_some (toepochZ_of_month _ _ _ _ _ hlo hhi)).trans ?_
    rw [outOfContract_of_month hlo hhi, ← monthOffsets_getD _ hlo hhi, leapDay, ystart_eq, Nat.cast_ite]
    rfl

/-- Settles O30: FROMEPOCH by the date of the epoch value, whose year, month and day fit their registers. -/
theorem fromepochDecomposesTheEpoch : Obligations.FromepochDecomposesTheEpoch := by
  refine ⟨rfl, fun s => ?_⟩
  obtain ⟨m, dm, -, -, hdate⟩ := exists_isDate s.acc.toNat
  have hyear := year_le_of_isDate_acc hdate
  have hday := hdate.day_le
  refine ⟨m, dm, hdate.monthDay, ?_, by omega, ?_⟩
  · show 1970 + yearoff s.acc.toNat < 65536
    omega
  · rw [exec_eq, State.after, tupleAfter_fromepoch hdate]
    simp only [accAfter, imgAfter, setsBadbcd, setsRange, setsWdbad, outOfWindow_eq, Bool.or_false]
    rfl

/-- Settles O31: the tuple that FROMEPOCH leaves shows the epoch value, and TOEPOCH reads it back. -/
theorem epochRoundTrips : Obligations.EpochRoundTrips := by
  intro s
  have hshows := showsEpoch_after_fromepoch s
  refine ⟨_, _, exec_eq s .fromepoch, exec_toepoch_some (epochZ_of_showsEpoch hshows), ?_, rfl, rfl,
    fun hwindow => ?_⟩
  · simp [accResultInt_natCast]
  · rw [outOfContract_of_showsEpoch hshows hwindow]
    simp [State.after, State.accNat, outOfWindow_of_lt hwindow]

/-- Settles O32: a date of the window shows an epoch value of the window, which TOEPOCH puts in ACC, and
FROMEPOCH finds its registers as they are. -/
theorem dateRoundTrips : Obligations.DateRoundTrips := by
  intro s y mo d L hyear hyear' hmonth hmonth' hday hday' hhour hmin hsec
  obtain ⟨D, hD, hdate⟩ := exists_isDate_of_day_le hyear hyear' hmonth hmonth' hday hday'
  obtain ⟨e, he, hshows⟩ : ∃ e < 3155760000, s.tuple.ShowsEpoch e :=
    ⟨_, by omega, showsEpoch_of_isDate hyear hdate hhour hmin hsec⟩
  have hacc : (accResultInt e).toNat = e := by
    rw [accResultInt_natCast, BitVec.toNat_ofNat, Nat.mod_eq_of_lt (by omega)]
  refine ⟨{ s with acc := accResultInt e }, ?_, ?_, rfl, rfl⟩
  · rw [exec_toepoch_some (epochZ_of_showsEpoch hshows), outOfContract_of_showsEpoch hshows he,
      Bool.or_false]
  · rw [exec_eq, State.after, tupleAfter_fromepoch_of_showsEpoch (by rwa [hacc])]
    simp [State.accNat, hacc, outOfWindow_of_lt he]

end Sys2Proof.Machine

/-! PROOFS of the statements on the tuple access commands (42_tuple_access.md). GETF of any field is
`getField_eq`; SETF of any field has its law here. Each of the seven commands is the law at its field,
with `zext_32` and the dropping of bits (00_scope.md R6) as a change of width. -/

namespace Sys2Proof.Machine

/-- SETF of any field changes T alone (42_tuple_access.md R112). -/
theorem setField_eq (f : Field) (s : State) :
    setField f s = .next { s with tuple := (s.writeField f s.acc).tuple } := by
  cases f <;> rfl

/-- Settles O33: the word is NOP's, and NOP answers the state it is given. -/
theorem nopChangesNothing : Obligations.NopChangesNothing :=
  ⟨rfl, fun _ => rfl⟩

/-- Settles O34: GETF's law at each field. -/
theorem getfCopiesTheFieldToAcc : Obligations.GetfCopiesTheFieldToAcc := by
  refine ⟨rfl, rfl, rfl, rfl, rfl, rfl, rfl, fun s => ?_⟩
  simp only [BitVec.ofNat_toNat]
  exact ⟨getField_eq .year s, getField_eq .month s, getField_eq .day s, getField_eq .wday s,
    getField_eq .hour s, getField_eq .min s, getField_eq .sec s⟩

/-- Settles O35: SETF's law at each field. -/
theorem setfStoresTheLowBitsOfAcc : Obligations.SetfStoresTheLowBitsOfAcc := by
  refine ⟨rfl, rfl, rfl, rfl, rfl, rfl, rfl, fun s => ?_⟩
  simp only [BitVec.ofNat_toNat]
  exact ⟨setField_eq .year s, setField_eq .month s, setField_eq .day s, setField_eq .wday s,
    setField_eq .hour s, setField_eq .min s, setField_eq .sec s⟩

end Sys2Proof.Machine

/-! PROOFS of the statements on the register image commands (43_register_image.md). First the decode masks
as remainders, and the bytes that survive them; the weekday bit under the scan; and the images as what each
address reads as after the stores. The commands' statements are then their normal forms, read through these
laws. Last the round trip: the bytes that PACKCLK stores for a tuple in contract are the bytes that
UNPACKCLK reads, none of them malformed, and they decode to the tuple. -/

namespace Sys2Proof.Machine

section DecodeMasks

/-- The number of values that the decode mask of a field lets through (40_register_codec.md R61). -/
def BcdField.maskSize : BcdField → Nat
  | .year => 256
  | .month => 32
  | .day | .hour => 64
  | .min | .sec => 128

/-- The largest value of a field in contract (41_calendar_engine.md R91); the year's is that of its two
digits in the image (43_register_image.md R121). -/
def BcdField.largest : BcdField → Nat
  | .year => 99
  | .month => 12
  | .day => 31
  | .hour => 23
  | .min | .sec => 59

variable (f : BcdField) (b : Byte)

/-- A decode mask is a run of low bits, so it takes a remainder. -/
theorem and_decodeMask_toNat : (b &&& decodeMask f).toNat = b.toNat % f.maskSize := by
  rw [BitVec.toNat_and]
  cases f with
  | year => exact Nat.and_two_pow_sub_one_eq_mod _ 8
  | month => exact Nat.and_two_pow_sub_one_eq_mod _ 5
  | day | hour => exact Nat.and_two_pow_sub_one_eq_mod _ 6
  | min | sec => exact Nat.and_two_pow_sub_one_eq_mod _ 7

theorem dec2bcd_toNat_mono {n k : Nat} (hn : n ≤ k) (hk : k ≤ 99) :
    (dec2bcd n).toNat ≤ (dec2bcd k).toNat := by
  have htens : n / 10 ≤ k / 10 := Nat.div_le_div_right hn
  rw [dec2bcd_toNat_of_le hk, dec2bcd_toNat_of_le (hn.trans hk)]
  omega

theorem largest_le : f.largest ≤ 99 := by
  cases f <;> decide

/-- The decode masks lose nothing of a value in contract: the largest one passes. -/
theorem dec2bcd_and_decodeMask {n : Nat} (hn : n ≤ f.largest) :
    dec2bcd n &&& decodeMask f = dec2bcd n := by
  have hfits : (dec2bcd f.largest).toNat < f.maskSize := by
    cases f <;> decide
  apply BitVec.eq_of_toNat_eq
  rw [and_decodeMask_toNat,
    Nat.mod_eq_of_lt ((dec2bcd_toNat_mono hn (largest_le f)).trans_lt hfits)]

/-- The pivot year of a two-digit number (40_register_codec.md R65). -/
theorem yeardec_dec2bcd {n : Nat} (hn : n ≤ 99) :
    yeardec (dec2bcd n) = if n < 70 then 2000 + n else 1900 + n := by
  rw [yeardec, bcd2dec_dec2bcd hn]

end DecodeMasks

section WeekdayByte
variable {w : Nat}

theorem wdof_lt (e : Nat) : wdof e < 7 := Nat.mod_lt _ (by decide)

/-- The weekday byte has the weekday's bit and no other. -/
theorem wdpack_getLsbD (hw : w < 7) (i : Nat) : (wdpack w).getLsbD i = true ↔ i = w := by
  rw [wdpack_eq, BitVec.getLsbD_ofNat, Nat.testBit_two_pow, Bool.and_eq_true, decide_eq_true_eq,
    decide_eq_true_eq]
  omega

theorem oneWeekdayBit_wdpack (hw : w < 7) : OneWeekdayBit (wdpack w) :=
  ⟨w, hw, (wdpack_getLsbD hw w).mpr rfl, fun j _ => (wdpack_getLsbD hw j).mp⟩

theorem malformedWeekday_wdpack (hw : w < 7) : malformedWeekday (wdpack w) = false :=
  Bool.eq_false_iff.mpr fun h => (malformedWeekday_iff _).mp h (oneWeekdayBit_wdpack hw)

/-- The scan finds the weekday whose bit is set, whatever the previous one was. -/
theorem wdscan_wdpack (hw : w < 7) (prev : Byte) : wdscan (wdpack w) prev = BitVec.ofNat 8 w := by
  obtain ⟨hclear, -⟩ | ⟨-, hset, -⟩ := isWeekdayScan_wdscan (wdpack w) prev
  · have hset := (wdpack_getLsbD hw w).mpr rfl
    rw [hclear w hw] at hset
    cases hset
  · apply BitVec.eq_of_toNat_eq
    rw [(wdpack_getLsbD hw _).mp hset, BitVec.toNat_ofNat, Nat.mod_eq_of_lt (by omega)]

end WeekdayByte

section StoredImages
variable (m : Memory) (a : Nat)

/-- What a read gives after consecutive stores, the first store taken off. -/
theorem read_writtenFrom_cons (start : Nat) (v : Byte) (rest : List Byte) :
    (writtenFrom m start (v :: rest)).read a =
      if a = start then v else (writtenFrom m (start + 1) rest).read a := by
  by_cases ha : a = start
  · rw [if_pos ha, writtenFrom, read_writtenFrom_outside (.inl (by omega)), ha,
      memory_read_write_same]
  · rw [if_neg ha, writtenFrom, read_writtenFrom, read_writtenFrom, memory_read_write_other _ _ _ _ ha]

theorem read_writtenFrom_nil (start : Nat) : (writtenFrom m start []).read a = m.read a := rfl

/-- The clock image, address by address (43_register_image.md R121). -/
theorem read_clockImage (t : Tuple) (w : Nat) :
    (writtenFrom m 0 (clockImage t w)).read a =
      if a = 0 then clockBase else if a = 1 then dec2bcd t.sec.toNat
      else if a = 2 then dec2bcd t.min.toNat else if a = 3 then dec2bcd t.hour.toNat
      else if a = 4 then wdpack w else if a = 5 then dec2bcd t.day.toNat
      else if a = 6 then dec2bcd t.month.toNat else if a = 7 then dec2bcd (t.year.toNat % 100)
      else m.read a := by
  simp only [clockImage, read_writtenFrom_cons, read_writtenFrom_nil, Nat.reduceAdd]

/-- The alarm image, address by address (43_register_image.md R122, R123). -/
theorem read_alarmImage (base minute hour sentinel : Byte) :
    (writtenFrom m 8 [base, minute, hour, sentinel]).read a =
      if a = 8 then base else if a = 9 then minute else if a = 10 then hour
      else if a = 11 then sentinel else m.read a := by
  simp only [read_writtenFrom_cons, read_writtenFrom_nil, Nat.reduceAdd]

end StoredImages

section AlarmOperands
variable (s : State)

theorem alarmMinute_toNat : s.alarmMinute.toNat = s.acc.toNat % 256 := accByte_toNat s

theorem alarmHour_toNat : s.alarmHour.toNat = s.acc.toNat / 256 % 256 := BitVec.toNat_ofNat ..

end AlarmOperands

section ClockCommands
variable {s : State} {z : Int}

/-- `trunc_32` as a remainder (00_scope.md R6). -/
theorem accResultInt_toNat (z : Int) : (accResultInt z).toNat = (z % 2 ^ 32).toNat := by
  simp [accResultInt]

/-- PACKCLK with a legal month changes IMG and RANGE alone (43_register_image.md R121). -/
theorem exec_packclk_some (hz : s.tuple.epochZ = some z) :
    exec .packclk s = .next { s with
      status := { s.status with range := s.status.range || s.tuple.outOfContract }
      img := writtenFrom s.img 0 (clockImage s.tuple (wdof (accResultInt z).toNat)) } := by
  refine (execPackclk_some s z hz).trans ?_
  rw [flagIf_range, accResultInt]

/-- UNPACKCLK changes T, BADBCD and WDBAD alone (43_register_image.md R120). -/
theorem exec_unpackclk (s : State) : exec .unpackclk s = .next { s with
    tuple := s.clockBytes.tuple s.tuple.wday
    status := { s.status with
      badbcd := s.status.badbcd || s.clockBytes.malformed
      wdbad := s.status.wdbad || malformedWeekday (s.img.read 4) } } := by
  rw [exec_eq]
  simp [State.after, State.clockBytes]

end ClockCommands

section ImageRoundTrip

/-- The premise of 43_register_image.md R125: in contract, with a year of four digits. -/
structure Tuple.InFourDigitContract (t : Tuple) : Prop where
  year_ge : 1970 ≤ t.year.toNat
  year_le : t.year.toNat ≤ 2069
  month_ge : 1 ≤ t.month.toNat
  month_le : t.month.toNat ≤ 12
  day_ge : 1 ≤ t.day.toNat
  day_le : t.day.toNat ≤ 31
  hour_le : t.hour.toNat ≤ 23
  min_le : t.min.toNat ≤ 59
  sec_le : t.sec.toNat ≤ 59

/-- The seven data bytes of the clock image that PACKCLK stores (43_register_image.md R121). -/
def packedBytes (t : Tuple) (w : Nat) : ClockBytes where
  sec := dec2bcd t.sec.toNat
  min := dec2bcd t.min.toNat
  hour := dec2bcd t.hour.toNat
  wday := wdpack w
  day := dec2bcd t.day.toNat
  month := dec2bcd t.month.toNat
  year := dec2bcd (t.year.toNat % 100)

variable {t : Tuple} {w : Nat}

theorem Tuple.InFourDigitContract.outOfContract (h : t.InFourDigitContract) :
    t.outOfContract = false := by
  obtain ⟨hyear, hyear', hmonth, hmonth', hday, hday', hhour, hmin, hsec⟩ := h
  rw [outOfContract_of_month hmonth hmonth', normyear_of_ge hyear]
  exact decide_eq_false (by omega)

/-- UNPACKCLK reads the bytes that PACKCLK stored: no mask loses a bit of them. -/
theorem clockBytes_of_clockImage {s : State} {m : Memory} (h : t.InFourDigitContract)
    (himg : s.img = writtenFrom m 0 (clockImage t w)) : s.clockBytes = packedBytes t w := by
  simp [State.clockBytes, packedBytes, himg, read_clockImage, and_decodeMask_year,
    dec2bcd_and_decodeMask .sec h.sec_le, dec2bcd_and_decodeMask .min h.min_le,
    dec2bcd_and_decodeMask .hour h.hour_le, dec2bcd_and_decodeMask .day h.day_le,
    dec2bcd_and_decodeMask .month h.month_le]

theorem malformed_packedBytes (h : t.InFourDigitContract) : (packedBytes t w).malformed = false := by
  obtain ⟨-, -, -, hmonth, -, hday, hhour, hmin, hsec⟩ := h
  have hyear : t.year.toNat % 100 ≤ 99 := by omega
  simp only [ClockBytes.malformed, packedBytes, malformedBcd_dec2bcd hyear,
    malformedBcd_dec2bcd (hmonth.trans (by decide)), malformedBcd_dec2bcd (hday.trans (by decide)),
    malformedBcd_dec2bcd (hhour.trans (by decide)), malformedBcd_dec2bcd (hmin.trans (by decide)),
    malformedBcd_dec2bcd (hsec.trans (by decide)), Bool.or_false]

/-- The pivot gives back the century that `mod 100` took from a year of the window
(40_register_codec.md R65). -/
theorem yeardec_dec2bcd_mod {y : Nat} (hy : 1970 ≤ y) (hy' : y ≤ 2069) :
    yeardec (dec2bcd (y % 100)) = y := by
  rw [yeardec_dec2bcd (by omega)]
  split <;> omega

theorem tuple_packedBytes (h : t.InFourDigitContract) (hw : w < 7) (prev : Byte) :
    (packedBytes t w).tuple prev = { t with wday := BitVec.ofNat 8 w } := by
  obtain ⟨hyear, hyear', -, hmonth, -, hday, hhour, hmin, hsec⟩ := h
  simp only [ClockBytes.tuple, packedBytes, yeardec_dec2bcd_mod hyear hyear', wdscan_wdpack hw,
    bcd2dec_dec2bcd (hmonth.trans (by decide)), bcd2dec_dec2bcd (hday.trans (by decide)),
    bcd2dec_dec2bcd (hhour.trans (by decide)), bcd2dec_dec2bcd (hmin.trans (by decide)),
    bcd2dec_dec2bcd (hsec.trans (by decide)), BitVec.ofNat_toNat, BitVec.setWidth_eq]

/-- UNPACKCLK of an image that PACKCLK stored changes T alone: it holds the packed tuple, with the packed
weekday (43_register_image.md R125). -/
theorem exec_unpackclk_of_clockImage {s : State} {m : Memory} (h : t.InFourDigitContract)
    (hw : w < 7) (himg : s.img = writtenFrom m 0 (clockImage t w)) :
    exec .unpackclk s = .next { s with tuple := { t with wday := BitVec.ofNat 8 w } } := by
  have hbytes := clockBytes_of_clockImage h himg
  have hwday : s.img.read 4 = wdpack w := congrArg ClockBytes.wday hbytes
  rw [exec_unpackclk, hbytes, tuple_packedBytes h hw, malformed_packedBytes h, hwday,
    malformedWeekday_wdpack hw, Bool.or_false, Bool.or_false]

end ImageRoundTrip

/-- Settles O36: UNPACKCLK's equation, with the masks as remainders and the scan and WDBAD by their laws. -/
theorem unpackclkDecodesTheClockImage : Obligations.UnpackclkDecodesTheClockImage := by
  refine ⟨rfl, fun s => ⟨_, _, isWeekdayScan_wdscan _ _, malformedWeekday_iff _, ?_⟩⟩
  rw [exec_unpackclk]
  simp only [ClockBytes.tuple, ClockBytes.malformed, State.clockBytes, yeardec, bcd2dec_eq,
    malformedBcd_eq, and_decodeMask_year, and_decodeMask_toNat, BcdField.maskSize, Bool.or_assoc]

/-- Settles O37: the refusal, and otherwise the clock image address by address, with the epoch value and
the contract as the statement spells them out. -/
theorem packclkStoresTheClockImageOrRefuses : Obligations.PackclkStoresTheClockImageOrRefuses := by
  refine ⟨rfl, fun s => ⟨fun hmonth => ?_, fun hlo hhi => ?_⟩⟩
  · exact execPackclk_none s ((epochZ_eq_none s.tuple).mpr hmonth)
  · refine ⟨_, exec_packclk_some (toepochZ_of_month _ _ _ _ _ hlo hhi), rfl, rfl, rfl, rfl, ?_,
      fun a => ?_⟩
    · rw [outOfContract_of_month hlo hhi]
      rfl
    · rw [read_clockImage, wdpack_eq, accResultInt_toNat, ← monthOffsets_getD _ hlo hhi, leapDay,
        ystart_eq, Nat.cast_ite]
      rfl

/-- Settles O38: the words are those of well-formed commands; the normal form does not name the index, and
its image is the alarm image of the two operands. -/
theorem packalmStoresTheAlarmImage : Obligations.PackalmStoresTheAlarmImage := by
  refine ⟨fun idx hidx => ?_, fun s => ⟨s.after (.packalm 0), fun idx => exec_eq s (.packalm idx), rfl,
    rfl, rfl, rfl, ?_, fun a => ?_⟩⟩
  · have hdecode := decodeOfEncodeIsTheCommand (.packalm idx) (decide_eq_true hidx)
    rwa [encode, Nat.mod_eq_of_lt hidx] at hdecode
  · simp [State.after, outOfTwoDigits, alarmHour_toNat, alarmMinute_toNat]
  · rw [State.after, imgAfter, read_alarmImage, alarmMinute_toNat, alarmHour_toNat]
    rfl

/-- Settles O39: CLRALM's normal form, with the alarm image of three sentinels. -/
theorem clralmStoresTheClearedImage : Obligations.ClralmStoresTheClearedImage := by
  refine ⟨rfl, fun s => ⟨s.after .clralm, exec_eq s .clralm, rfl, rfl, ?_, rfl, rfl, fun a => ?_⟩⟩
  · simp [State.after]
  · rw [State.after, imgAfter, read_alarmImage, ite_or, ite_or]
    rfl

/-- Settles O40: PACKCLK and TOEPOCH reduce the same epoch value, PACKCLK sets no flag in contract, and
UNPACKCLK of its image changes T alone. -/
theorem clockImageRoundTrips : Obligations.ClockImageRoundTrips := by
  intro s hyear hyear' hmonth hmonth' hday hday' hhour hmin hsec
  have hcontract : s.tuple.InFourDigitContract :=
    ⟨hyear, hyear', hmonth, hmonth', hday, hday', hhour, hmin, hsec⟩
  have hz := toepochZ_of_month s.tuple.year.toNat s.tuple.day.toNat s.tuple.hour.toNat
    s.tuple.min.toNat s.tuple.sec.toNat hmonth hmonth'
  refine ⟨_, _, _, exec_packclk_some hz, exec_unpackclk_of_clockImage hcontract (wdof_lt _) rfl,
    exec_toepoch_some hz, rfl, ?_, rfl⟩
  simp only [hcontract.outOfContract, Bool.or_false]

end Sys2Proof.Machine

/-! PROOFS of the statements on the flags (60_exceptions.md). That no step stops follows from the three
kinds of bus cycle, since every transaction answers. For the flags, the normal form of a command gives
each flag as the one before or the command's own condition; the conditions of R143 to R145 are spelled out
as numbers, and each statement goes through the commands that set its flag. -/

namespace Sys2Proof.Machine

section EveryOutcomeIsANextState
variable (s : State)

theorem runCommand_of_decode_error {w : Byte} {e : IllegalWord} (hw : decode w = .error e) :
    runCommand w s = raise .illcmd s := by
  simp [runCommand, hw]

/-- A word written to CMD is answered: with its command's state, or with ILLCMD (30_encoding.md R48,
R49). -/
theorem exists_runCommand_eq_next (w : Byte) : ∃ t, runCommand w s = .next t := by
  cases hw : decode w with
  | ok i => exact ⟨_, (runCommand_of_decode s hw).trans (exec_eq s i)⟩
  | error e => exact ⟨_, runCommand_of_decode_error s hw⟩

/-- A transaction is answered: a read, a command or a store at another port (20_memory.md R32). -/
theorem exists_perform_eq_next (r : Request) : ∃ t, perform r s = .next t := by
  obtain ⟨we, pa, v⟩ := r
  cases we with
  | false => exact ⟨_, perform_read s pa v⟩
  | true =>
    by_cases hpa : pa = 1#4
    · subst hpa
      rw [perform_command]
      exact exists_runCommand_eq_next _ _
    · exact ⟨_, perform_store s pa v hpa⟩

end EveryOutcomeIsANextState

/-- Settles O15: with no cycle placed, in a reset and in a passing cycle the step has its equation, and an
answered transaction always ends in a state. -/
theorem everyStepAnswersANextState : Obligations.EveryStepAnswersANextState := by
  intro s
  cases hhost : s.host with
  | nil => exact ⟨_, step_of_host_nil hhost⟩
  | cons c rest =>
    obtain hrst | hpasses | hanswers := cycle_cases hhost
    · exact ⟨_, step_of_rst hhost hrst⟩
    · exact ⟨_, step_of_passes hhost hpasses⟩
    · rw [step_of_answersNext hanswers]
      exact exists_perform_eq_next _ _

/-- STATUS after a command: each flag as before or set by the command, and ILLCMD as before. -/
theorem status_of_exec {i : Instr} {s t : State} (h : exec i s = .next t) :
    t.status = { s.status with
      badbcd := s.status.badbcd || setsBadbcd i s
      range := s.status.range || setsRange i s
      wdbad := s.status.wdbad || setsWdbad i s } := by
  rw [eq_after_of_exec h, State.after]

section MalformedBytes
variable (f : BcdField) (b : Byte) (s : State)

/-- One of the two nibbles of a byte's value is no decimal digit (60_exceptions.md R143). -/
def HasBadNibble (n : Nat) : Prop := 9 < n / 16 ∨ 9 < n % 16

theorem malformedBcd_iff : malformedBcd b = true ↔ HasBadNibble b.toNat := by
  rw [malformedBcd_eq, decide_eq_true_iff, HasBadNibble]

/-- The masked byte of ACC is a remainder of ACC itself: every mask size divides 256. -/
theorem malformedBcd_masked_accByte_iff :
    malformedBcd (s.accByte &&& decodeMask f) = true ↔
      HasBadNibble (s.acc.toNat % f.maskSize) := by
  have hdvd : f.maskSize ∣ 256 := by cases f <;> decide
  rw [malformedBcd_iff, and_decodeMask_toNat, accByte_toNat, Nat.mod_mod_of_dvd _ hdvd]

/-- The six bytes that UNPACKCLK decodes, in the order of the image (20_memory.md R35). -/
theorem malformed_clockBytes_iff : s.clockBytes.malformed = true ↔
    HasBadNibble ((s.img.read 1).toNat % 128) ∨ HasBadNibble ((s.img.read 2).toNat % 128) ∨
      HasBadNibble ((s.img.read 3).toNat % 64) ∨ HasBadNibble ((s.img.read 5).toNat % 64) ∨
      HasBadNibble ((s.img.read 6).toNat % 32) ∨ HasBadNibble (s.img.read 7).toNat := by
  simp only [ClockBytes.malformed, State.clockBytes, Bool.or_eq_true, malformedBcd_iff,
    and_decodeMask_year, and_decodeMask_toNat, BcdField.maskSize, or_assoc]

end MalformedBytes

section RangeConditions

/-- The years whose normal form is in the window (41_calendar_engine.md R88, R91). -/
theorem normyear_mem_window_iff (y : Nat) :
    (1970 ≤ normyear y ∧ normyear y ≤ 2069) ↔ y < 70 ∨ 1970 ≤ y ∧ y ≤ 2069 := by
  unfold normyear
  split <;> omega

/-- RANGE of TOEPOCH and PACKCLK for any month (60_exceptions.md R144). -/
theorem outOfContract_iff (t : Tuple) : t.outOfContract = true ↔
    (t.month.toNat < 1 ∨ 12 < t.month.toNat) ∨
      ¬((t.year.toNat < 70 ∨ 1970 ≤ t.year.toNat ∧ t.year.toNat ≤ 2069) ∧
        1 ≤ t.day.toNat ∧ t.day.toNat ≤ 31 ∧ t.hour.toNat ≤ 23 ∧ t.min.toNat ≤ 59 ∧
        t.sec.toNat ≤ 59) := by
  have hyear := normyear_mem_window_iff t.year.toNat
  rw [Tuple.outOfContract, inContract, Bool.not_eq_true', decide_eq_false_iff_not]
  omega

theorem outOfTwoDigits_iff (n : Nat) : outOfTwoDigits n = true ↔ 99 < n := decide_eq_true_iff

theorem outOfWeek_iff (n : Nat) : outOfWeek n = true ↔ 6 < n := decide_eq_true_iff

theorem outOfWindow_iff (e : Nat) : outOfWindow e = true ↔ 3155760000 ≤ e := by
  rw [outOfWindow_eq, decide_eq_true_iff]

/-- A refused TOEPOCH or PACKCLK raises RANGE (41_calendar_engine.md R99; 43_register_image.md R121). -/
theorem exec_eq_raise_of_badMonth {i : Instr} {s : State} (hi : i = .toepoch ∨ i = .packclk)
    (hmonth : s.tuple.month.toNat < 1 ∨ 12 < s.tuple.month.toNat) : exec i s = raise .range s := by
  have hz := (epochZ_eq_none s.tuple).mpr hmonth
  obtain rfl | rfl := hi
  · exact execToepoch_none s hz
  · exact execPackclk_none s hz

end RangeConditions

/-- Settles O17: the condition of each kind of operand, and the refusal is `raise`. -/
theorem rangeIsSetExactlyWhenOutOfContract : Obligations.RangeIsSetExactlyWhenOutOfContract := by
  intro i s t hexec
  refine ⟨?_, fun hi hmonth =>
    Host.Outcome.next.inj (hexec.symm.trans (exec_eq_raise_of_badMonth hi hmonth))⟩
  rw [status_of_exec hexec]
  refine Bool.or_eq_true_iff.trans (or_congr_right ?_)
  cases i with
  | dec2bcd => exact outOfTwoDigits_iff _
  | wdpack => exact outOfWeek_iff _
  | days | yearof | doy | monthof | dayof | wdof | fromepoch => exact outOfWindow_iff _
  | toepoch | packclk => exact outOfContract_iff s.tuple
  | packalm idx =>
    rw [setsRange, Bool.or_eq_true, outOfTwoDigits_iff, outOfTwoDigits_iff, alarmHour_toNat,
      alarmMinute_toNat]
  | _ => exact iff_of_false Bool.false_ne_true id

/-- Settles O18: each command that decodes BCD, by the bytes it decodes. -/
theorem badbcdIsSetExactlyForAMalformedByte : Obligations.BadbcdIsSetExactlyForAMalformedByte := by
  intro i s t hexec
  rw [status_of_exec hexec]
  refine Bool.or_eq_true_iff.trans (or_congr_right ?_)
  cases i with
  | bcd2decYear => exact malformedBcd_masked_accByte_iff .year s
  | bcd2decMonth => exact malformedBcd_masked_accByte_iff .month s
  | bcd2decDay => exact malformedBcd_masked_accByte_iff .day s
  | bcd2decHour => exact malformedBcd_masked_accByte_iff .hour s
  | bcd2decMin => exact malformedBcd_masked_accByte_iff .min s
  | bcd2decSec => exact malformedBcd_masked_accByte_iff .sec s
  | yeardec => rw [setsBadbcd, malformedBcd_iff, accByte_toNat, HasBadNibble]
  | unpackclk => exact malformed_clockBytes_iff s
  | _ => exact iff_of_false Bool.false_ne_true id

/-- Settles O19: the two commands that scan a weekday byte, by the law of the count of its bits. -/
theorem wdbadIsSetExactlyForAMalformedWeekday : Obligations.WdbadIsSetExactlyForAMalformedWeekday := by
  intro i s t hexec
  rw [status_of_exec hexec]
  refine Bool.or_eq_true_iff.trans (or_congr_right ?_)
  cases i with
  | wdunpack => exact malformedWeekday_iff s.accByte
  | unpackclk => exact malformedWeekday_iff (s.img.read 4)
  | _ => exact iff_of_false Bool.false_ne_true id

end Sys2Proof.Machine

/-! PROOFS of the statements on reset and hazards (70_reset_and_hazards.md). Latency is a question of what
a step reads: no meaning reads the host's later signals or the last answer, so a cycle that does something
leads to the same state whatever these are, and a cycle that passes changes only these. `State.withSignals`
replaces the two; the statement is then an induction on the cycles. -/

namespace Sys2Proof.Machine

/-- Settles O10: the equation of the step for a reset cycle, which does not name the request. -/
theorem resetAbandonsTheRequest : Obligations.ResetAbandonsTheRequest :=
  fun _ _ _ => step_of_rst

section YearAliasing
variable {s : State} {m : Memory} {t : Tuple} {w : Nat}

/-- The year byte of a clock image that PACKCLK stored decodes to the two low decimal digits of the year,
with pivot 70, whatever the other fields are (40_register_codec.md R65; 43_register_image.md R121). -/
theorem yeardec_clockBytes_of_clockImage (himg : s.img = writtenFrom m 0 (clockImage t w)) :
    yeardec s.clockBytes.year =
      if t.year.toNat % 100 < 70 then 2000 + t.year.toNat % 100 else 1900 + t.year.toNat % 100 := by
  have hbyte : s.clockBytes.year = dec2bcd (t.year.toNat % 100) := by
    simp [State.clockBytes, himg, read_clockImage, and_decodeMask_year]
  rw [hbyte, yeardec_dec2bcd (by omega)]

/-- A decoded year fits T[YEAR] (10_state.md R11). -/
theorem yeardec_lt (b : Byte) : yeardec b < 2 ^ 16 := by
  have hle := bcd2dec_le b
  unfold yeardec
  split <;> omega

theorem tuple_year_toNat (c : ClockBytes) (prev : Byte) : (c.tuple prev).year.toNat = yeardec c.year := by
  rw [ClockBytes.tuple, BitVec.toNat_ofNat, Nat.mod_eq_of_lt (yeardec_lt _)]

end YearAliasing

/-- Settles O41: UNPACKCLK's year is the decoded year byte of the image that PACKCLK stored. -/
theorem yearsAliasInTheClockImage : Obligations.YearsAliasInTheClockImage := by
  intro s hmonth hmonth'
  have hz := toepochZ_of_month s.tuple.year.toNat s.tuple.day.toNat s.tuple.hour.toNat
    s.tuple.min.toNat s.tuple.sec.toNat hmonth hmonth'
  refine ⟨_, _, exec_packclk_some hz, exec_unpackclk _, ?_⟩
  rw [tuple_year_toNat]
  exact yeardec_clockBytes_of_clockImage rfl

section BusSignals

/-- The state with other host signals to come and another last answer: the model's own two fields (log
entries 1 and 2). -/
def State.withSignals (s : State) (host : List BusCycle) (answer : BusAnswer) : State :=
  { s with host := host, answer := answer }

variable (s : State) (host : List BusCycle) (answer : BusAnswer)

theorem architectural_withSignals : (s.withSignals host answer).architectural = s.architectural := rfl

/-- A command word neither reads the signals nor changes them (30_encoding.md R48, R49). -/
theorem exists_runCommand_withSignals (w : Byte) : ∃ t : State, ∀ host answer,
    runCommand w (s.withSignals host answer) = .next (t.withSignals host answer) := by
  cases hw : decode w with
  | ok i => exact ⟨s.after i, fun _ _ => (runCommand_of_decode _ hw).trans (exec_eq _ i)⟩
  | error e => exact ⟨s.setFlag .illcmd, fun _ _ => runCommand_of_decode_error _ hw⟩

/-- A transaction reads neither signal: it keeps the host's and gives an answer of its own. -/
theorem exists_perform_withSignals (r : Request) : ∃ t : State, ∀ host answer,
    perform r (s.withSignals host answer) = .next (t.withSignals host t.answer) := by
  obtain ⟨we, pa, v⟩ := r
  cases we with
  | false => exact ⟨{ s with answer := .readData (s.mappedWord pa) }, fun _ _ => perform_read _ pa v⟩
  | true =>
    by_cases hpa : pa = 1#4
    · subst hpa
      obtain ⟨t, ht⟩ := exists_runCommand_withSignals s (v.setWidth 8)
      exact ⟨t.withSignals [] .written, fun host _ => (perform_command _ v).trans (ht host .written)⟩
    · exact ⟨{ s with
        acc := if pa.toNat = 0 then v else s.acc
        img := if 4 ≤ pa.toNat then s.img.write (pa.toNat - 4) (v.setWidth 8) else s.img
        answer := .written }, fun _ _ => perform_store _ pa v hpa⟩

end BusSignals

section Latency
variable {c : BusCycle}

/-- A passing cycle changes the signals alone (20_memory.md R44). -/
theorem step_withSignals_of_passes (s : State) (rest : List BusCycle) (answer : BusAnswer)
    (hpasses : c.passes = true) :
    step (s.withSignals (c :: rest) answer) = .next (s.withSignals rest .noAck) :=
  step_of_passes rfl hpasses

/-- A cycle that resets or answers leads to one state, whatever the cycles after it and the last answer
are. -/
theorem exists_step_withSignals_of_not_passes (s : State) (hbusy : c.passes = false) :
    ∃ t : State, ∀ rest answer,
      step (s.withSignals (c :: rest) answer) = .next (t.withSignals rest t.answer) := by
  cases hrst : c.rst with
  | true => exact ⟨State.reset, fun rest answer => step_of_rst rfl hrst⟩
  | false =>
    obtain ⟨t, ht⟩ := exists_perform_withSignals s c.request
    refine ⟨t, fun rest answer => ?_⟩
    have hanswers : (s.withSignals (c :: rest) answer).answersNext c.request rest := by
      simpa [hrst, hbusy] using cycle_cases (s := s.withSignals (c :: rest) answer) rfl
    exact (step_of_answersNext hanswers).trans (ht rest answer)

theorem run_succ_of_step {M : Host.Core} {s t : M.State} (h : M.step s = .next t) (k : Nat) :
    M.run (k + 1) s = M.run k t := by
  rw [Host.Core.run, h]

/-- The run over all the cycles and the run over those that do something end in one state but for the last
answer (70_reset_and_hazards.md R172). -/
theorem exists_run_eq_run_filter (cs : List BusCycle) (s : State) (answer answer' : BusAnswer) :
    let busy := cs.filter (fun c => !c.passes)
    ∃ (t : State) (last last' : BusAnswer),
      Host.Core.run core cs.length (s.withSignals cs answer) = .next (t.withSignals [] last) ∧
      Host.Core.run core busy.length (s.withSignals busy answer') = .next (t.withSignals [] last') := by
  induction cs generalizing s answer answer' with
  | nil => exact ⟨s, answer, answer', rfl, rfl⟩
  | cons c rest ih =>
    cases hpasses : c.passes with
    | true =>
      obtain ⟨t, last, last', hall, hbusy⟩ := ih s .noAck answer'
      refine ⟨t, last, last', ?_, ?_⟩
      · exact (run_succ_of_step (step_withSignals_of_passes s rest answer hpasses) _).trans hall
      · rwa [List.filter_cons_of_neg (by simp [hpasses])]
    | false =>
      obtain ⟨u, hstep⟩ := exists_step_withSignals_of_not_passes s hpasses
      obtain ⟨t, last, last', hall, hbusy⟩ := ih u u.answer u.answer
      refine ⟨t, last, last', ?_, ?_⟩
      · exact (run_succ_of_step (hstep _ _) _).trans hall
      · rw [List.filter_cons_of_pos (by simp [hpasses])]
        exact (run_succ_of_step (hstep _ _) _).trans hbusy

end Latency

/-- Settles O42: both runs end in one state but for the last answer, which is no architectural state. -/
theorem latencyCannotBeObserved : Obligations.LatencyCannotBeObserved := by
  intro s cs
  obtain ⟨t, last, last', hall, hbusy⟩ := exists_run_eq_run_filter cs s s.answer s.answer
  exact ⟨_, _, hall, hbusy, (architectural_withSignals t [] last).trans
    (architectural_withSignals t [] last').symm⟩

end Sys2Proof.Machine

/-! PROOFS of the remaining statement on the image memory (20_memory.md): the base case of the canonical
form, whose step is `stepKeepsMemoryCanonical`. -/

namespace Sys2Proof.Machine

/-- Settles O11: reset lists no cell, since an unlisted address reads as the reset value, and the empty
memory is canonical. -/
theorem resetMemoryIsCanonical : Obligations.ResetMemoryIsCanonical := by
  have hempty : State.reset.img = [] := rfl
  rw [Obligations.ResetMemoryIsCanonical, hempty]
  exact memory_wf_nil

end Sys2Proof.Machine
